-- ==== Sys2Proof/Word.lean ====
section
/-!
DEFINITION. Sys2Proof/Word.lean: the words of the FT8 LDPC decoder core: bus words and bytes, the packed bit vectors
of 00_scope.md R17 and the encodings of IEEE 754 binary64 (R15, R16).
-/
namespace Sys2Proof

/-- A bus word: `BUS_W` = 32 data bits (00_scope.md R10, 20_memory.md R100). -/
abbrev Word := BitVec 32

/-- A byte lane of the bus (20_memory.md R102). -/
abbrev Byte := BitVec 8

/-- A byte offset in the register window: the bus target's 15 offset bits (20_memory.md R117). -/
abbrev Offset := BitVec 15

/-- A hard codeword: bit `i` is codeword bit `i` of `N_VAR` = 174 (00_scope.md R10, R17). -/
abbrev Bits174 := BitVec 174

/-- A Gauss-Jordan row: bit `c` is column `c` of `GJ_COLS` = 182 (00_scope.md R10, 10_state.md R64). -/
abbrev GjRow := BitVec 182

/-- A row label of `WHICH` (10_state.md R63). -/
abbrev Label := BitVec 8

/-- The encoding of an IEEE 754 binary64 value: sign at bit 63, exponent at 62:52, fraction at 51:0
(00_scope.md R15, R16). Its arithmetic is in Machine/Float.lean. -/
structure F64 where
  bits : BitVec 64
  deriving DecidableEq, Repr, Inhabited

end Sys2Proof
end

