-- ==== Sys2Proof/Config.lean ====
section
/-!
DEFINITION. Sys2Proof/Config.lean: what an implementation fixes (the OPEN parameters of 00_scope.md R10) and the free
values (93_implementation_defined.md, "any value"). An `opaque` constant has no body: no proof can see its value, so a
theorem holds for every value of it.
-/
namespace Sys2Proof

/-- `N_VAR`: codeword bits, variable nodes (00_scope.md R10). -/
def nVar : Nat := 174

/-- `N_CHK`: parity checks, check nodes (00_scope.md R10). -/
def nChk : Nat := 83

/-- The nonzero entries of a row of `Nm`; 0 means "no bit" (40_parity_check.md R160). -/
def Config.present (row : List Nat) : List Nat := row.filter (· ≠ 0)

/-- A row of `Nm`: 7 slots in [0, 174], the nonzero ones distinct, 6 or 7 of them (40_parity_check.md R160, R162
items 1 and 4). -/
def Config.nmRowOk (row : List Nat) : Bool :=
  row.length == 7 && row.all (· ≤ 174) && decide (present row).Nodup &&
    ((present row).length == 6 || (present row).length == 7)

/-- A row of `Mn`: three distinct checks in [1, 83] (40_parity_check.md R161, R162 item 2). -/
def Config.mnRowOk (row : List Nat) : Bool :=
  row.length == 3 && row.all (fun u => 1 ≤ u && u ≤ 83) && decide row.Nodup

/-- `WF_TABLES` of 40_parity_check.md R162 with the shapes of R160 and R161: the rows are well formed and `i + 1` is an
entry of `Nm[j]` exactly when `j + 1` is an entry of `Mn[i]` (item 3), its two directions written over the entries of
`Nm` and over those of `Mn`. -/
def Config.wfTables (nm mn : List (List Nat)) : Bool :=
  nm.length == 83 && mn.length == 174 && nm.all nmRowOk && mn.all mnRowOk &&
    (nm.zipIdx.all fun (row, j) => (present row).all fun v => (mn.getD (v - 1) []).contains (j + 1)) &&
    mn.zipIdx.all fun (col, i) => col.all fun u => (nm.getD (u - 1) []).contains (i + 1)

/-- A sample `Mn` that meets `WF_TABLES`: edge `e = 3 i + s` of bit `i` goes to check `(e mod 83) (e div 83 + 1) mod 83`.
It is NOT the FT8 table, which no source gives (40_parity_check.md R160, N12); it shows that `WF_TABLES` can be met and
serves the tests (log 5). -/
def Config.sampleMn : List (List Nat) :=
  [[1, 2, 3], [4, 5, 6], [7, 8, 9], [10, 11, 12], [13, 14, 15], [16, 17, 18], [19, 20, 21], [22, 23, 24], [25, 26,
    27], [28, 29, 30], [31, 32, 33], [34, 35, 36], [37, 38, 39], [40, 41, 42], [43, 44, 45], [46, 47, 48], [49, 50,
    51], [52, 53, 54], [55, 56, 57], [58, 59, 60], [61, 62, 63], [64, 65, 66]] ++
  [[67, 68, 69], [70, 71, 72], [73, 74, 75], [76, 77, 78], [79, 80, 81], [82, 83, 1], [3, 5, 7], [9, 11, 13], [15,
    17, 19], [21, 23, 25], [27, 29, 31], [33, 35, 37], [39, 41, 43], [45, 47, 49], [51, 53, 55], [57, 59, 61], [63,
    65, 67], [69, 71, 73], [75, 77, 79], [81, 83, 2], [4, 6, 8], [10, 12, 14]] ++
  [[16, 18, 20], [22, 24, 26], [28, 30, 32], [34, 36, 38], [40, 42, 44], [46, 48, 50], [52, 54, 56], [58, 60, 62],
    [64, 66, 68], [70, 72, 74], [76, 78, 80], [82, 1, 4], [7, 10, 13], [16, 19, 22], [25, 28, 31], [34, 37, 40],
    [43, 46, 49], [52, 55, 58], [61, 64, 67], [70, 73, 76], [79, 82, 2], [5, 8, 11]] ++
  [[14, 17, 20], [23, 26, 29], [32, 35, 38], [41, 44, 47], [50, 53, 56], [59, 62, 65], [68, 71, 74], [77, 80, 83],
    [3, 6, 9], [12, 15, 18], [21, 24, 27], [30, 33, 36], [39, 42, 45], [48, 51, 54], [57, 60, 63], [66, 69, 72],
    [75, 78, 81], [1, 5, 9], [13, 17, 21], [25, 29, 33], [37, 41, 45], [49, 53, 57]] ++
  [[61, 65, 69], [73, 77, 81], [2, 6, 10], [14, 18, 22], [26, 30, 34], [38, 42, 46], [50, 54, 58], [62, 66, 70],
    [74, 78, 82], [3, 7, 11], [15, 19, 23], [27, 31, 35], [39, 43, 47], [51, 55, 59], [63, 67, 71], [75, 79, 83],
    [4, 8, 12], [16, 20, 24], [28, 32, 36], [40, 44, 48], [52, 56, 60], [64, 68, 72]] ++
  [[76, 80, 1], [6, 11, 16], [21, 26, 31], [36, 41, 46], [51, 56, 61], [66, 71, 76], [81, 3, 8], [13, 18, 23], [28,
    33, 38], [43, 48, 53], [58, 63, 68], [73, 78, 83], [5, 10, 15], [20, 25, 30], [35, 40, 45], [50, 55, 60], [65,
    70, 75], [80, 2, 7], [12, 17, 22], [27, 32, 37], [42, 47, 52], [57, 62, 67]] ++
  [[72, 77, 82], [4, 9, 14], [19, 24, 29], [34, 39, 44], [49, 54, 59], [64, 69, 74], [79, 1, 7], [13, 19, 25], [31,
    37, 43], [49, 55, 61], [67, 73, 79], [2, 8, 14], [20, 26, 32], [38, 44, 50], [56, 62, 68], [74, 80, 3], [9, 15,
    21], [27, 33, 39], [45, 51, 57], [63, 69, 75], [81, 4, 10], [16, 22, 28]] ++
  [[34, 40, 46], [52, 58, 64], [70, 76, 82], [5, 11, 17], [23, 29, 35], [41, 47, 53], [59, 65, 71], [77, 83, 6],
    [12, 18, 24], [30, 36, 42], [48, 54, 60], [66, 72, 78], [1, 8, 15], [22, 29, 36], [43, 50, 57], [64, 71, 78],
    [2, 9, 16], [23, 30, 37], [44, 51, 58], [65, 72, 79]]

/-- The `Nm` that belongs to `sampleMn`: the bits of each check in rising order, a 0 in the last slot where the check has
weight 6. -/
def Config.sampleNm : List (List Nat) :=
  [[1, 28, 56, 84, 111, 139, 167], [1, 42, 65, 91, 128, 144, 171], [1, 29, 75, 98, 117, 148, 0], [2, 43, 56, 105,
    134, 153, 0], [2, 29, 66, 84, 123, 158, 0], [2, 43, 75, 91, 112, 162, 0], [3, 29, 57, 98, 128, 139, 0], [3, 43,
    66, 105, 117, 144, 167], [3, 30, 75, 84, 134, 149, 171], [4, 44, 57, 91, 123, 153, 0], [4, 30, 66, 98, 112, 158,
    0], [4, 44, 76, 105, 129, 163, 0], [5, 30, 57, 85, 118, 140, 0], [5, 44, 67, 92, 134, 144, 0]] ++
  [[5, 31, 76, 99, 123, 149, 167], [6, 45, 58, 106, 112, 154, 171], [6, 31, 67, 85, 129, 158, 0], [6, 45, 76, 92,
    118, 163, 0], [7, 31, 58, 99, 135, 140, 0], [7, 45, 67, 106, 124, 145, 0], [7, 32, 77, 85, 113, 149, 0], [8, 46,
    58, 92, 129, 154, 168], [8, 32, 68, 99, 118, 159, 172], [8, 46, 77, 106, 135, 163, 0], [9, 32, 59, 86, 124, 140,
    0], [9, 46, 68, 93, 113, 145, 0], [9, 33, 77, 100, 130, 150, 0], [10, 47, 59, 107, 119, 154, 0]] ++
  [[10, 33, 68, 86, 135, 159, 168], [10, 47, 78, 93, 124, 164, 172], [11, 33, 59, 100, 113, 141, 0], [11, 47, 69,
    107, 130, 145, 0], [11, 34, 78, 86, 119, 150, 0], [12, 48, 60, 93, 136, 155, 0], [12, 34, 69, 100, 125, 159, 0],
    [12, 48, 78, 107, 114, 164, 168], [13, 34, 60, 87, 130, 141, 172], [13, 48, 69, 94, 119, 146, 0], [13, 35, 79,
    101, 136, 150, 0], [14, 49, 60, 108, 125, 155, 0], [14, 35, 70, 87, 114, 160, 0], [14, 49, 79, 94, 131, 164, 0]] ++
  [[15, 35, 61, 101, 120, 141, 169], [15, 49, 70, 108, 136, 146, 173], [15, 36, 79, 87, 125, 151, 0], [16, 50, 61,
    94, 114, 155, 0], [16, 36, 70, 101, 131, 160, 0], [16, 50, 80, 108, 120, 165, 0], [17, 36, 61, 88, 137, 142, 0],
    [17, 50, 71, 95, 126, 146, 169], [17, 37, 80, 102, 115, 151, 173], [18, 51, 62, 109, 131, 156, 0], [18, 37, 71,
    88, 120, 160, 0], [18, 51, 80, 95, 137, 165, 0], [19, 37, 62, 102, 126, 142, 0], [19, 51, 71, 109, 115, 147, 0]] ++
  [[19, 38, 81, 88, 132, 151, 169], [20, 52, 62, 95, 121, 156, 173], [20, 38, 72, 102, 137, 161, 0], [20, 52, 81,
    109, 126, 165, 0], [21, 38, 63, 89, 115, 142, 0], [21, 52, 72, 96, 132, 147, 0], [21, 39, 81, 103, 121, 152, 0],
    [22, 53, 63, 110, 138, 156, 170], [22, 39, 72, 89, 127, 161, 174], [22, 53, 82, 96, 116, 166, 0], [23, 39, 63,
    103, 132, 143, 0], [23, 53, 73, 110, 121, 147, 0], [23, 40, 82, 89, 138, 152, 0], [24, 54, 64, 96, 127, 157, 0]] ++
  [[24, 40, 73, 103, 116, 161, 170], [24, 54, 82, 110, 133, 166, 174], [25, 40, 64, 90, 122, 143, 0], [25, 54, 73,
    97, 138, 148, 0], [25, 41, 83, 104, 127, 152, 0], [26, 55, 64, 111, 116, 157, 0], [26, 41, 74, 90, 133, 162, 0],
    [26, 55, 83, 97, 122, 166, 170], [27, 41, 65, 104, 139, 143, 174], [27, 55, 74, 111, 128, 148, 0], [27, 42, 83,
    90, 117, 153, 0], [28, 56, 65, 97, 133, 157, 0], [28, 42, 74, 104, 122, 162, 0]]

/-- The parity tables `Nm` and `Mn` with the proof that they satisfy `WF_TABLES`: a table that breaks it is refused
rather than given a meaning (40_parity_check.md R160 to R162, D26), here by being no value of this type. The default
fields only show that the type is inhabited. -/
structure Tables where
  /-- `NM_TABLE`, 83 rows of 7 slots, 1-based, 0 for "no bit" (R160). -/
  nm : List (List Nat) := Config.sampleNm
  /-- `MN_TABLE`, 174 rows of 3 slots, 1-based (R161). -/
  mn : List (List Nat) := Config.sampleMn
  /-- `WF_TABLES` (R162). -/
  wf : Config.wfTables nm mn = true := by decide +kernel
  deriving DecidableEq, Repr, Inhabited

/-- The parameters `NM_TABLE` and `MN_TABLE` (00_scope.md R10, D26, U8), log 5. -/
opaque Config.tables : Tables

/-- The parameter `EXP_FN`, the exponential on binary64 (00_scope.md R10, D3, U9), log 4. -/
opaque Config.expFn : F64 → F64

/-- The parameter `LOG_FN`, the natural logarithm on binary64 (00_scope.md R10, D3, U9), log 4. -/
opaque Config.logFn : F64 → F64

/-- The parameter behind `BASE_ADDR`: which 32 KiB page of the bus holds the window (00_scope.md R10, U35), log 14. -/
opaque Config.basePage : Nat

/-- Free value: draw number `n` of an unspecified 32-bit word (U2, U20, U23), log 7. -/
opaque Config.freeWord : Nat → Word

/-- Free value: draw number `n` of an unspecified binary64 encoding (U24), log 7. -/
opaque Config.freeF64 : Nat → F64

end Sys2Proof
end

