-- ==== Sys2Proof/Syntax.lean ====
section
/-!
DEFINITION. Sys2Proof/Syntax.lean: the command set LDPC174-CMD 1.0 (30_encoding.md R133), one constructor per row of
spec/opcode_table.json.
-/
namespace Sys2Proof

/-- The six commands of 30_encoding.md R133. An argument is the field `ARG` (bits 31:16 of the command word, R131),
an unsigned number neither scaled nor sign-extended (R132). -/
inductive Instr where
  /-- CHECK, 40_parity_check.md R170. -/
  | check
  /-- DECODE_PROB with the iteration budget `iters`, 42_decode_prob.md R210. -/
  | decodeProb (iters : BitVec 16)
  /-- DECODE_LLR with the iteration budget `iters`, 43_decode_llr.md R230. -/
  | decodeLlr (iters : BitVec 16)
  /-- CRC14 over `n` message bits, 45_crc14.md R262. -/
  | crc14 (n : BitVec 16)
  /-- GJ_INVERT, 46_gauss_jordan.md R276. -/
  | gjInvert
  /-- TANH, 44_tanh.md R246. -/
  | tanh
  deriving DecidableEq, Repr

end Sys2Proof
end

