-- ==== Sys2Proof/Machine/State.lean ====
section
/-!
DEFINITION. Sys2Proof/Machine/State.lean: the state of the block (10_state.md, 70_reset_and_hazards.md R340), of its
ENGINE (10_state.md R80) and of its environment, as plain data; why a step can stop; the state after reset.
-/
namespace Sys2Proof.Machine

/-- Why the machine stops: the model faults the spec names (10_state.md R67; 93_implementation_defined.md U21, U22). -/
inductive Fault where
  /-- A host read of a buffer word that nobody wrote, raised by `hostRead`: the word holds no value. Safe: the block
  would answer something, and no claim may depend on it. -/
  | unwrittenRead (off : Nat)
  /-- A command accepted while a buffer word it reads is unwritten, raised by `acceptCommand`. Safe, for the same reason. -/
  | unwrittenInput (off : Nat)
  deriving DecidableEq, Repr

/-- What the model gives no meaning. -/
inductive Refusal where
  /-- An instruction with no meaning yet; raised by an arm of `exec` only. Safe. -/
  | notModelled (mnemonic : String)
  /-- A host access while `rst` is asserted, raised by `perform`: "an access during reset is outside this spec"
  (70_reset_and_hazards.md R341, U27). Safe. -/
  | accessDuringReset
  deriving DecidableEq, Repr

/-- The interface errors (60_exceptions.md R300). -/
inductive ErrCode where
  | illegalCmd
  | badArg
  | busyAccess
  | badAccess
  deriving DecidableEq, Repr

/-- One access of the bus target: offset, byte enables, and for a write its data (20_memory.md R100, R101, R117). -/
inductive Access where
  | read (off : Offset) (lanes : BitVec 4)
  | write (off : Offset) (lanes : BitVec 4) (data : Word)
  deriving DecidableEq, Repr

/-- Who moves next (00_scope.md R18; 70_reset_and_hazards.md R350, R351), log 1. -/
inductive Turn where
  /-- The HOST performs an access. Where it is a command word that is accepted, `prompt` says that the ENGINE completes
  the command before anything else happens ("including none", R350); otherwise the command is left running. -/
  | host (a : Access) (prompt : Bool)
  /-- The ENGINE does the work of its present phase. -/
  | engine
  /-- `rst` is asserted (70_reset_and_hazards.md R340). -/
  | assertRst
  /-- `rst` is released (70_reset_and_hazards.md R341). -/
  | releaseRst
  deriving DecidableEq, Repr

/-- The scheduler phases of 10_state.md R80 but IDLE, which is the absence of a running command. -/
inductive Phase where
  | init
  | cn
  | hd
  | test
  | vn
  | finish
  deriving DecidableEq, Repr

/-- The domain of a decode (41_scheduler.md R183). -/
inductive Domain where
  | prob
  | llr
  deriving DecidableEq, Repr

/-- The hidden state of a decode (10_state.md R80). A message matrix is kept at its edges only: row `j` holds its values in
the slot order of `ROW(j)` (R80, 40_parity_check.md R164, U5). -/
structure Decoder where
  dom : Domain
  /-- The iteration budget, `CMD.ARG`. -/
  iters : Nat
  /-- `NIT`. -/
  nit : Nat
  /-- `Lc`. -/
  lc : List F64
  /-- `P`; used in the probability domain. -/
  p : List F64
  /-- `M`. -/
  m : List (List F64)
  /-- `E`. -/
  e : List (List F64)
  /-- `CW`. -/
  cw : Bits174
  /-- `BEST`. -/
  best : Bits174
  /-- `BEST_SCORE`. -/
  bestScore : Nat
  /-- Whether the loop ended by a score of 83 (41_scheduler.md R185) and OUT emits `CW`; log 10. -/
  early : Bool
  deriving DecidableEq, Repr

/-- The working state of the running command (10_state.md R80), log 10. -/
inductive Work where
  /-- CHECK: the score to write. -/
  | check (score : Nat)
  /-- DECODE_PROB and DECODE_LLR. -/
  | decode (d : Decoder)
  /-- CRC14: `N` and `SCR`. -/
  | crc14 (n : Nat) (scr : List Bool)
  /-- GJ_INVERT: `GR`, the matrix and labels being worked on, and whether no pivot was found (46_gauss_jordan.md R274). -/
  | gjInvert (gr : Nat) (rows : List GjRow) (labels : List Label) (failed : Bool)
  /-- TANH: the value to write. -/
  | tanh (y : F64)
  deriving DecidableEq, Repr

/-- A command in progress: the command itself, taken from the `CMD` write (20_memory.md R114), its phase and its work. -/
structure Running where
  cmd : Instr
  phase : Phase
  work : Work
  deriving DecidableEq, Repr

/-- The buffers' storage: (window offset, byte) pairs, offsets strictly rising. An unlisted byte holds no value
(10_state.md R67), so no pair equals what an unlisted byte reads as. -/
abbrev Memory := List Host.Cell

/-- The offsets of a memory rise strictly: the one form a memory has. -/
abbrev Memory.wf (m : Memory) : Prop := (m.map Prod.fst).Pairwise (· < ·)

/-- The whole machine. -/
structure State where
  /-- `CTRL.IE` (10_state.md R44). -/
  ie : Bool
  /-- `STATUS.DONE` (10_state.md R48). -/
  done : Bool
  /-- `STATUS.ERR` and `STATUS.ERR_CODE`: the first error since `ERR` was last 0 (10_state.md R49, R50). -/
  err : Option ErrCode
  /-- `CMD` (10_state.md R52). -/
  cmd : Word
  /-- `SCORE` bits 6:0 (10_state.md R53). -/
  score : BitVec 7
  /-- `ITERS_RUN` bits 15:0 (10_state.md R54). -/
  itersRun : BitVec 16
  /-- `GJ_OK` bit 0 (10_state.md R55). -/
  gjOk : Bool
  /-- `CRC_OUT` bits 13:0 (10_state.md R56). -/
  crcOut : BitVec 14
  /-- `TANH_Y` (10_state.md R58). -/
  tanhY : F64
  /-- `TANH_X`, `HARD`, `CRC_MSG`, `LLR`, `WHICH` and `GJ_M` (10_state.md R57, R60 to R64, R67). -/
  mem : Memory
  /-- `NM_ROM` and `MN_ROM` (10_state.md R65, R66; 40_parity_check.md R165). -/
  rom : Tables
  /-- The running command and the ENGINE's hidden state (10_state.md R80); `STATUS.BUSY` is its presence (R47). -/
  engine : Option Running
  /-- The level of the `rst` input (20_memory.md R117, 70_reset_and_hazards.md R341). -/
  rst : Bool
  /-- The model's own: the turns to come, next one first (log 1). -/
  turns : List Turn
  /-- The model's own: what host reads returned, newest first (00_scope.md R19, log 12). -/
  reads : List Word
  /-- The model's own: how many free values have been drawn (log 7). -/
  draws : Nat
  deriving DecidableEq, Repr

/-- The state after hardware reset (70_reset_and_hazards.md R340), `rst` released, with no turn to come. -/
def State.reset : State where
  ie := false
  done := false
  err := none
  cmd := 0
  score := 0
  itersRun := 0
  gjOk := false
  crcOut := 0
  tanhY := ⟨0#64⟩
  mem := []
  rom := Config.tables
  engine := none
  rst := false
  turns := []
  reads := []
  draws := 0

end Sys2Proof.Machine
end

