-- ==== Sys2Proof/Machine/Graph.lean ====
section
/-!
DEFINITION. Sys2Proof/Machine/Graph.lean: the Tanner graph read from the tables (40_parity_check.md R164), the parity
checker (R166, R167) and messages on edges (10_state.md R80).
-/
namespace Sys2Proof.Machine

/-- `ROW(j)`: the bits of check `j` in slot order, absent slots skipped (40_parity_check.md R164). -/
def row (t : Tables) (j : Nat) : List Nat := (Config.present (t.nm.getD j [])).map (· - 1)

/-- `COL(i)`: the checks of bit `i` in slot order (40_parity_check.md R164). -/
def col (t : Tables) (i : Nat) : List Nat := (t.mn.getD i []).map (· - 1)

/-- `PARITY(j, c)` (40_parity_check.md R166). -/
def parity (t : Tables) (j : Nat) (c : Bits174) : Bool :=
  (row t j).foldl (fun p i => p ^^ c.getLsbD i) false

/-- `SCORE_OF(c)` (40_parity_check.md R167). -/
def scoreOf (t : Tables) (c : Bits174) : Nat :=
  ((List.range 83).filter fun j => !parity t j c).length

/-- The message on edge `(j, i)` (10_state.md R80). -/
def message (t : Tables) (x : List (List F64)) (j i : Nat) : F64 :=
  (x.getD j []).getD ((row t j).idxOf i) ⟨0#64⟩

/-- A message for every edge: `f j i` at edge `(j, i)`. The order in which edges are processed is free (41_scheduler.md
R184). -/
def onEdges (t : Tables) (f : Nat → Nat → F64) : List (List F64) :=
  (List.range 83).map fun j => (row t j).map (f j)

end Sys2Proof.Machine
end

