-- ==== Sys2Proof/WellFormed.lean ====
section
/-!
DEFINITION. Sys2Proof/WellFormed.lean: which commands the block accepts. The one check on an argument is CRC14's length
(30_encoding.md R137); every argument of the decodes is legal, 0 included.
-/
namespace Sys2Proof

/-- `CRC_NMAX`, the longest CRC message in bits (00_scope.md R10, D13). -/
def crcNMax : Nat := 256

/-- A command whose argument the block accepts: CRC14 takes at most `CRC_NMAX` bits, and a longer length is rejected
with `BAD_ARG` (30_encoding.md R137, R138). -/
def Instr.wellFormed : Instr → Bool
  | .check => true
  | .decodeProb _ => true
  | .decodeLlr _ => true
  | .crc14 n => decide (n.toNat ≤ crcNMax)
  | .gjInvert => true
  | .tanh => true

end Sys2Proof
end

