-- ==== Sys2Proof/Decode.lean ====
section
/-!
DEFINITION. Sys2Proof/Decode.lean: the command decoder of 30_encoding.md R130 to R136, total on every word and every
list of bytes, and after it the encoder written from the same fields.
-/
namespace Sys2Proof

/-- Why a word is no command. The block reports the first three as `ILLEGAL_CMD` (30_encoding.md R134 to R136);
`tooShort` only says that fewer than four bytes were given. -/
inductive DecodeError where
  /-- `OPC` is 0x0 or in [0x7, 0xF] (R134). -/
  | reservedOpc
  /-- `RSV` is not 0 (R135). -/
  | reservedBits
  /-- `ARG` is not 0 for CHECK, GJ_INVERT or TANH (R136). -/
  | strayArg
  /-- Fewer than four bytes. -/
  | tooShort
  deriving DecidableEq, Repr

/-- `OPC`, bits 3:0 (30_encoding.md R131). -/
def opcOf (w : Word) : BitVec 4 := w.extractLsb' 0 4

/-- `RSV`, bits 15:4 (30_encoding.md R131). -/
def rsvOf (w : Word) : BitVec 12 := w.extractLsb' 4 12

/-- `ARG`, bits 31:16 (30_encoding.md R131, R132). -/
def argOf (w : Word) : BitVec 16 := w.extractLsb' 16 16

/-- A command that takes no argument: its `ARG` must be 0 (30_encoding.md R136). -/
def withoutArg (w : Word) (i : Instr) : Except DecodeError Instr :=
  if argOf w = 0 then .ok i else .error .strayArg

/-- The command a word stands for (30_encoding.md R133 to R136). A CRC14 word longer than `CRC_NMAX` does decode; the
block then rejects its argument (`Instr.wellFormed`, R137, vector EN7). -/
def decode (w : Word) : Except DecodeError Instr :=
  if rsvOf w ≠ 0 then .error .reservedBits
  else match (opcOf w).toNat with
    | 0x1 => withoutArg w .check
    | 0x2 => .ok (.decodeProb (argOf w))
    | 0x3 => .ok (.decodeLlr (argOf w))
    | 0x4 => .ok (.crc14 (argOf w))
    | 0x5 => withoutArg w .gjInvert
    | 0x6 => withoutArg w .tanh
    | _ => .error .reservedOpc

/-- A command word from its fields, `ARG ‖ RSV ‖ OPC` with `RSV` = 0 (30_encoding.md R131). -/
def commandWord (opc : BitVec 4) (arg : BitVec 16) : Word := arg ++ 0#12 ++ opc

/-- The word of a command (30_encoding.md R133). -/
def encode : Instr → Word
  | .check => commandWord 0x1 0
  | .decodeProb iters => commandWord 0x2 iters
  | .decodeLlr iters => commandWord 0x3 iters
  | .crc14 n => commandWord 0x4 n
  | .gjInvert => commandWord 0x5 0
  | .tanh => commandWord 0x6 0

/-- A word from its four byte lanes, lane `b` carrying bits `8b+7 : 8b` (20_memory.md R102). -/
def wordOfLanes (b0 b1 b2 b3 : Byte) : Word := b3 ++ b2 ++ b1 ++ b0

/-- Byte lane `b` of a word (20_memory.md R102). -/
def laneOf (w : Word) (b : Nat) : Byte := w.extractLsb' (8 * b) 8

/-- A word as the four bytes at its address and the three after it (20_memory.md R102). -/
def bytesOfWord (w : Word) : List Byte := [laneOf w 0, laneOf w 1, laneOf w 2, laneOf w 3]

/-- Decodes the command at the head of a list of bytes and gives the rest of the list: every command is one word of four
bytes (30_encoding.md R130), little-endian (20_memory.md R102). -/
def decodeBytes : List Byte → Except DecodeError (Instr × List Byte)
  | b0 :: b1 :: b2 :: b3 :: rest => (decode (wordOfLanes b0 b1 b2 b3)).map fun i => (i, rest)
  | _ => .error .tooShort

/-- The bus word of an opcode-table row's bits: bits above `nbits` are 0. -/
def tableWord (nbits w : Nat) : Word := BitVec.ofNat 32 (w % 2 ^ nbits)

/-- What the decoder reads from a command whose bits are `w`, of which the opcode table gives `nbits`. -/
def decodeTableWord (nbits w : Nat) : Option Instr :=
  match decodeBytes (bytesOfWord (tableWord nbits w)) with
  | .ok (i, _) => some i
  | .error _ => none

end Sys2Proof
end

