-- ==== Sys2Proof/Machine/Flags.lean ====
section
/-!
DEFINITION. Sys2Proof/Machine/Flags.lean: the flags of the block (10_state.md R47 to R51, R72), the status and control
words a host reads, and the interrupt output (60_exceptions.md R320).
-/
namespace Sys2Proof.Machine

/-- A word with one given bit. -/
def bitAt (k : Nat) (b : Bool) : Word := if b then BitVec.twoPow 32 k else 0

/-- The codes of 60_exceptions.md R300. -/
def ErrCode.code : ErrCode → BitVec 4
  | .illegalCmd => 1
  | .badArg => 2
  | .busyAccess => 3
  | .badAccess => 4

/-- `STATUS.BUSY`: a command is running (10_state.md R47). -/
def State.busy (s : State) : Bool := s.engine.isSome

/-- `STATUS.ERR` (10_state.md R49). -/
def State.errFlag (s : State) : Bool := s.err.isSome

/-- `STATUS.ERR_CODE`; 0 when `ERR` = 0 (10_state.md R50). -/
def State.errCode (s : State) : BitVec 4 := (s.err.map ErrCode.code).getD 0

/-- `STATUS` as a host reads it: `BUSY` bit 0, `DONE` bit 1, `ERR` bit 2, `ERR_CODE` bits 7:4, the rest 0
(10_state.md R47 to R51). -/
def State.statusWord (s : State) : Word :=
  bitAt 0 s.busy ||| bitAt 1 s.done ||| bitAt 2 s.errFlag ||| s.errCode.setWidth 32 <<< 4

/-- `CTRL` as a host reads it: `IE` bit 0, the rest 0 (10_state.md R44 to R46). -/
def State.ctrlWord (s : State) : Word := bitAt 0 s.ie

/-- The `irq` output (60_exceptions.md R320). -/
def State.irq (s : State) : Bool := s.ie && (s.done || s.errFlag)

/-- The effect of a write to `STATUS`: `DONE` and `ERR` are cleared where a one is written, `ERR_CODE` with `ERR`
(10_state.md R48 to R51). -/
def State.clearStatus (s : State) (v : Word) : State :=
  { s with
    done := s.done && !v.getLsbD 1
    err := if v.getLsbD 2 then none else s.err }

end Sys2Proof.Machine
end

