-- ==== Sys2Proof/Machine/Float.lean ====
section
/-!
DEFINITION. Sys2Proof/Machine/Float.lean: the arithmetic of `NUM_FORMAT`, IEEE 754 binary64 rounded to nearest with ties
to even, subnormals kept (00_scope.md R10, R15). Every operation computes the exact result as a fraction of natural
numbers and rounds it once. All NaNs an operation makes are one value, which reaches comparisons only; the encoding of a
NaN that a host can read is drawn where TANH writes it (44_tanh.md R246, D35, log 6).
-/
namespace Sys2Proof

/-- A binary64 value: a NaN, a signed infinity, or `± mant × 2^exp` with a signed zero. -/
inductive FloatValue where
  | nan
  | inf (neg : Bool)
  | fin (neg : Bool) (mant : Nat) (exp : Int)
  deriving DecidableEq, Repr

/-- The exponent field, bits 62:52. -/
def F64.expField (x : F64) : Nat := (x.bits.extractLsb' 52 11).toNat

/-- The fraction field, bits 51:0. -/
def F64.fracField (x : F64) : Nat := (x.bits.extractLsb' 0 52).toNat

/-- The sign, bit 63. -/
def F64.sign (x : F64) : Bool := x.bits.msb

/-- A NaN: exponent all ones, fraction nonzero (93_implementation_defined.md U24). -/
def F64.isNaN (x : F64) : Bool := x.expField == 2047 && x.fracField != 0

/-- The value an encoding stands for. -/
def F64.value (x : F64) : FloatValue :=
  if x.expField = 2047 then
    if x.fracField = 0 then .inf x.sign else .nan
  else if x.expField = 0 then .fin x.sign x.fracField (-1074)
  else .fin x.sign (2 ^ 52 + x.fracField) ((x.expField : Int) - 1075)

/-- An encoding from its sign and its lower 63 bits. -/
def F64.pack (neg : Bool) (mag : Nat) : F64 := ⟨BitVec.cons neg (BitVec.ofNat 63 mag)⟩

/-- The NaN that operations give; any other would do (D35, log 6). -/
def F64.nan : F64 := ⟨0x7FF8000000000000#64⟩

/-- The lower 63 bits of an infinity. -/
def F64.infMag : Nat := 0x7FF0000000000000

def F64.inf (neg : Bool) : F64 := .pack neg infMag

def F64.zero : F64 := ⟨0#64⟩
def F64.one : F64 := ⟨0x3FF0000000000000#64⟩
def F64.two : F64 := ⟨0x4000000000000000#64⟩
def F64.half : F64 := ⟨0x3FE0000000000000#64⟩

/-- The binary64 value nearest 7.6 (00_scope.md R15). -/
def F64.c7_6 : F64 := ⟨0x401E666666666666#64⟩

/-- The binary64 value nearest 0.999 (00_scope.md R15). -/
def F64.c0_999 : F64 := ⟨0x3FEFF7CED916872B#64⟩

/-- `n / d × 2^k` as a fraction. -/
def F64.scale (n d : Nat) (k : Int) : Nat × Nat :=
  if 0 ≤ k then (n * 2 ^ k.toNat, d) else (n, d * 2 ^ (-k).toNat)

/-- The exponent of the binade of `n / d`: the `k` with `2^k ≤ n / d < 2^(k+1)`, for nonzero `n` and `d`. -/
def F64.floorLog2 (n d : Nat) : Int :=
  let k : Int := (Nat.log2 n : Int) - (Nat.log2 d : Int)
  let (a, b) := scale n d (-k)
  if b ≤ a then k else k - 1

/-- The exponent of the last place of the binary64 values around `n / d`: 53 significant bits, and never below the
subnormals' -1074. -/
def F64.lastPlace (n d : Nat) : Int := max (floorLog2 n d - 52) (-1074)

/-- The whole number nearest `n / d`, a tie going to the even one. -/
def F64.nearestEven (n d : Nat) : Nat :=
  if 2 * (n % d) > d ∨ (2 * (n % d) = d ∧ n / d % 2 = 1) then n / d + 1 else n / d

/-- `± n / d` rounded to the nearest binary64, ties to even (00_scope.md R15). The lower 63 bits of an encoding are
`(place + 1074) × 2^52 + significand`: a carry out of the significand moves to the next binade by itself, and whatever
reaches the encoding of infinity is infinity. -/
def F64.round (neg : Bool) (n d : Nat) : F64 :=
  if n = 0 then .pack neg 0
  else
    let place := lastPlace n d
    let (a, b) := scale n d (-place)
    .pack neg (min ((place + 1074).toNat * 2 ^ 52 + nearestEven a b) infMag)

/-- `± mant × 2^exp / d` rounded. -/
def F64.roundScaled (neg : Bool) (n d : Nat) (exp : Int) : F64 :=
  let (a, b) := scale n d exp
  .round neg a b

/-- A whole number, rounded. -/
def F64.ofNat (n : Nat) : F64 := .round false n 1

def F64.neg (x : F64) : F64 := ⟨x.bits ^^^ 0x8000000000000000#64⟩

/-- `±m` as an integer. -/
def F64.signedMant (neg : Bool) (m : Nat) : Int := if neg then -(m : Int) else m

/-- The sum of two finite values: exact, then rounded. An exact zero is +0 unless both are negative. -/
def F64.addFin (s₁ : Bool) (m₁ : Nat) (e₁ : Int) (s₂ : Bool) (m₂ : Nat) (e₂ : Int) : F64 :=
  let e := min e₁ e₂
  let sum := signedMant s₁ (m₁ * 2 ^ (e₁ - e).toNat) + signedMant s₂ (m₂ * 2 ^ (e₂ - e).toNat)
  if sum = 0 then .pack (s₁ && s₂) 0
  else .roundScaled (decide (sum < 0)) sum.natAbs 1 e

/-- IEEE 754 addition (00_scope.md R15). -/
def F64.add (x y : F64) : F64 :=
  match x.value, y.value with
  | .nan, _ => .nan
  | _, .nan => .nan
  | .inf s, .inf t => if s = t then .inf s else .nan
  | .inf s, .fin _ _ _ => .inf s
  | .fin _ _ _, .inf t => .inf t
  | .fin s₁ m₁ e₁, .fin s₂ m₂ e₂ => addFin s₁ m₁ e₁ s₂ m₂ e₂

/-- IEEE 754 subtraction (00_scope.md R15). -/
def F64.sub (x y : F64) : F64 := x.add y.neg

/-- IEEE 754 multiplication (00_scope.md R15). -/
def F64.mul (x y : F64) : F64 :=
  match x.value, y.value with
  | .nan, _ => .nan
  | _, .nan => .nan
  | .inf s, .inf t => .inf (s ^^ t)
  | .inf s, .fin t m _ => if m = 0 then .nan else .inf (s ^^ t)
  | .fin s m _, .inf t => if m = 0 then .nan else .inf (s ^^ t)
  | .fin s₁ m₁ e₁, .fin s₂ m₂ e₂ => roundScaled (s₁ ^^ s₂) (m₁ * m₂) 1 (e₁ + e₂)

/-- IEEE 754 division (00_scope.md R15). -/
def F64.div (x y : F64) : F64 :=
  match x.value, y.value with
  | .nan, _ => .nan
  | _, .nan => .nan
  | .inf _, .inf _ => .nan
  | .inf s, .fin t _ _ => .inf (s ^^ t)
  | .fin s _ _, .inf t => .pack (s ^^ t) 0
  | .fin s₁ m₁ e₁, .fin s₂ m₂ e₂ =>
    if m₂ = 0 then (if m₁ = 0 then .nan else .inf (s₁ ^^ s₂))
    else roundScaled (s₁ ^^ s₂) m₁ m₂ (e₁ - e₂)

/-- The place of a non-NaN value in the order of the reals; both zeros are 0. -/
def F64.orderKey (x : F64) : Int := signedMant x.sign (x.bits.extractLsb' 0 63).toNat

/-- IEEE 754 `<`; false with a NaN (00_scope.md R15). -/
def F64.lt (x y : F64) : Bool := !x.isNaN && !y.isNaN && decide (x.orderKey < y.orderKey)

/-- IEEE 754 `≤`; false with a NaN (00_scope.md R15). -/
def F64.le (x y : F64) : Bool := !x.isNaN && !y.isNaN && decide (x.orderKey ≤ y.orderKey)

/-- IEEE 754 `=`; false with a NaN, true of the two zeros (00_scope.md R15). -/
def F64.eq (x y : F64) : Bool := !x.isNaN && !y.isNaN && decide (x.orderKey = y.orderKey)

/-- `EXP(x)` (00_scope.md R15): the parameter `EXP_FN`, and NaN of a NaN (D28; 42_decode_prob.md R201), log 4. -/
def F64.exp (x : F64) : F64 := if x.isNaN then .nan else Config.expFn x

/-- `LOG(x)` (00_scope.md R15): the parameter `LOG_FN`, and NaN of a NaN (43_decode_llr.md R225), log 4. -/
def F64.log (x : F64) : F64 := if x.isNaN then .nan else Config.logFn x

end Sys2Proof
end

