-- ==== Sys2Proof/Machine/Ops.lean ====
section
/-!
DEFINITION. Sys2Proof/Machine/Ops.lean: the named operations over the state: buffer storage, the register window
(10_state.md R40, R41), recording an error (60_exceptions.md R301), unspecified values, the acceptance of a command
(30_encoding.md R138), and the two resets (70_reset_and_hazards.md R340, R342).
-/
namespace Sys2Proof.Machine

/-! ### Buffer storage -/

/-- The byte at a window offset, if it holds a value. -/
def Memory.read : Memory → Nat → Option Byte
  | [], _ => none
  | (b, v) :: rest, a => if b = a then some v else Memory.read rest a

/-- Stores a byte, keeping the offsets rising. -/
def Memory.write : Memory → Nat → Byte → Memory
  | [], a, v => [(a, v)]
  | (b, u) :: rest, a, v =>
    if a < b then (a, v) :: (b, u) :: rest
    else if a = b then (a, v) :: rest
    else (b, u) :: Memory.write rest a v

/-- The word at an offset, little-endian (20_memory.md R102); none where a byte holds no value. -/
def Memory.readWord (m : Memory) (off : Nat) : Option Word :=
  match m.read off, m.read (off + 1), m.read (off + 2), m.read (off + 3) with
  | some b0, some b1, some b2, some b3 => some (wordOfLanes b0 b1 b2 b3)
  | _, _, _, _ => none

/-- Stores a word, little-endian (20_memory.md R102). -/
def Memory.writeWord (m : Memory) (off : Nat) (v : Word) : Memory :=
  (((m.write off (laneOf v 0)).write (off + 1) (laneOf v 1)).write (off + 2) (laneOf v 2)).write (off + 3) (laneOf v 3)

/-! ### The register window -/

/-- The locations of the register window (10_state.md R40). A 64-bit value has a low and a high word (00_scope.md R16). -/
inductive Loc where
  | id
  | version
  | ctrl
  | status
  | cmd
  | score
  | itersRun
  | gjOk
  | crcOut
  | tanhX (high : Bool)
  | tanhY (high : Bool)
  | hard (w : Nat)
  | crcMsg (w : Nat)
  | llr (i : Nat) (high : Bool)
  | which (k : Nat)
  | gjM (r w : Nat)
  | nmRom (j k : Nat)
  | mnRom (i s : Nat)
  deriving DecidableEq, Repr

/-- 4 for a high word, 0 for a low one (00_scope.md R16). -/
def highBy (high : Bool) : Nat := if high then 4 else 0

/-- The offset of a location (the table of 10_state.md R40). -/
def Loc.offset : Loc → Nat
  | .id => 0x0000
  | .version => 0x0004
  | .ctrl => 0x0008
  | .status => 0x000C
  | .cmd => 0x0010
  | .score => 0x0014
  | .itersRun => 0x0018
  | .gjOk => 0x001C
  | .crcOut => 0x0020
  | .tanhX high => 0x0028 + highBy high
  | .tanhY high => 0x0030 + highBy high
  | .hard w => 0x0100 + 4 * w
  | .crcMsg w => 0x0200 + 4 * w
  | .llr i high => 0x0800 + 8 * i + highBy high
  | .which k => 0x1000 + 4 * k
  | .gjM r w => 0x2000 + 32 * r + 4 * w
  | .nmRom j k => 0x4000 + 4 * (7 * j + k)
  | .mnRom i s => 0x5000 + 4 * (3 * i + s)

/-- The location at a 4-aligned offset; none where the window is unmapped (10_state.md R40). -/
def locate (off : Nat) : Option Loc :=
  if off % 4 ≠ 0 then none
  else if off = 0x0000 then some .id
  else if off = 0x0004 then some .version
  else if off = 0x0008 then some .ctrl
  else if off = 0x000C then some .status
  else if off = 0x0010 then some .cmd
  else if off = 0x0014 then some .score
  else if off = 0x0018 then some .itersRun
  else if off = 0x001C then some .gjOk
  else if off = 0x0020 then some .crcOut
  else if off = 0x0028 then some (.tanhX false)
  else if off = 0x002C then some (.tanhX true)
  else if off = 0x0030 then some (.tanhY false)
  else if off = 0x0034 then some (.tanhY true)
  else if 0x0100 ≤ off ∧ off < 0x0100 + 4 * 6 then some (.hard ((off - 0x0100) / 4))
  else if 0x0200 ≤ off ∧ off < 0x0200 + 4 * 8 then some (.crcMsg ((off - 0x0200) / 4))
  else if 0x0800 ≤ off ∧ off < 0x0800 + 8 * 174 then
    some (.llr ((off - 0x0800) / 8) ((off - 0x0800) % 8 == 4))
  else if 0x1000 ≤ off ∧ off < 0x1000 + 4 * 174 then some (.which ((off - 0x1000) / 4))
  else if 0x2000 ≤ off ∧ off < 0x2000 + 32 * 174 then
    if (off - 0x2000) % 32 / 4 < 6 then some (.gjM ((off - 0x2000) / 32) ((off - 0x2000) % 32 / 4)) else none
  else if 0x4000 ≤ off ∧ off < 0x4000 + 4 * (7 * 83) then
    some (.nmRom ((off - 0x4000) / 4 / 7) ((off - 0x4000) / 4 % 7))
  else if 0x5000 ≤ off ∧ off < 0x5000 + 4 * (3 * 174) then
    some (.mnRom ((off - 0x5000) / 4 / 3) ((off - 0x5000) / 4 % 3))
  else none

/-- A well-formed access: all four byte lanes, at a 4-aligned offset (20_memory.md R101). -/
def wellFormedAccess (off : Offset) (lanes : BitVec 4) : Bool := lanes == 0xF && off.toNat % 4 == 0

/-- The location a well-formed access to a mapped offset names; none for every access that raises `BAD_ACCESS` whatever it
does (20_memory.md R101, 60_exceptions.md R302). -/
def target (off : Offset) (lanes : BitVec 4) : Option Loc :=
  if wellFormedAccess off lanes then locate off.toNat else none

/-- A read-only word (10_state.md R40, 60_exceptions.md R302); `STATUS` is none (10_state.md R51). -/
def Loc.readOnly : Loc → Bool
  | .id | .version | .score | .itersRun | .gjOk | .crcOut | .tanhY _ | .nmRom _ _ | .mnRom _ _ => true
  | .ctrl | .status | .cmd | .tanhX _ | .hard _ | .crcMsg _ | .llr _ _ | .which _ | .gjM _ _ => false

/-- The bits of a buffer word that hold data; the others are reserved, read 0 and ignore writes (10_state.md R41, R61,
R63, R64; 00_scope.md R17). -/
def Loc.mask : Loc → Word
  | .hard w => if w = 5 then 0x00003FFF else 0xFFFFFFFF
  | .which _ => 0x000000FF
  | .gjM _ w => if w = 5 then 0x003FFFFF else 0xFFFFFFFF
  | _ => 0xFFFFFFFF

/-- Word `high` of a 64-bit value (00_scope.md R16). -/
def wordOf64 (x : F64) (high : Bool) : Word :=
  if high then x.bits.extractLsb' 32 32 else x.bits.extractLsb' 0 32

/-- A 64-bit value with one of its words replaced (00_scope.md R16). -/
def withWord64 (x : F64) (high : Bool) (v : Word) : F64 :=
  if high then ⟨v ++ x.bits.extractLsb' 0 32⟩ else ⟨x.bits.extractLsb' 32 32 ++ v⟩

/-- What a location holds: its fields at their bits, reserved bits 0 (10_state.md R41 to R66); none for a buffer word
that holds no value (R67). -/
def State.readLoc (s : State) : Loc → Option Word
  | .id => some 0x4C445043
  | .version => some 0x00010000
  | .ctrl => some s.ctrlWord
  | .status => some s.statusWord
  | .cmd => some s.cmd
  | .score => some (s.score.setWidth 32)
  | .itersRun => some (s.itersRun.setWidth 32)
  | .gjOk => some (bitAt 0 s.gjOk)
  | .crcOut => some (s.crcOut.setWidth 32)
  | .tanhY high => some (wordOf64 s.tanhY high)
  | .nmRom j k => some (BitVec.ofNat 32 ((s.rom.nm.getD j []).getD k 0))
  | .mnRom i t => some (BitVec.ofNat 32 ((s.rom.mn.getD i []).getD t 0))
  | .tanhX high => s.mem.readWord (Loc.tanhX high).offset
  | .hard w => s.mem.readWord (Loc.hard w).offset
  | .crcMsg w => s.mem.readWord (Loc.crcMsg w).offset
  | .llr i high => s.mem.readWord (Loc.llr i high).offset
  | .which k => s.mem.readWord (Loc.which k).offset
  | .gjM r w => s.mem.readWord (Loc.gjM r w).offset

/-- Stores the data bits of a buffer word; reserved bits are stored as 0 (10_state.md R41). -/
def State.store (s : State) (l : Loc) (v : Word) : State :=
  { s with mem := s.mem.writeWord l.offset (v &&& l.mask) }

/-- Stores a list of buffer words. -/
def State.storeAll (s : State) (ws : List (Loc × Word)) : State :=
  ws.foldl (fun s (l, v) => s.store l v) s

/-! ### Result registers -/

/-- Writes `SCORE` (10_state.md R53). -/
def State.setScore (s : State) (v : BitVec 7) : State := { s with score := v }

/-- Writes `ITERS_RUN` (10_state.md R54). -/
def State.setItersRun (s : State) (v : BitVec 16) : State := { s with itersRun := v }

/-- Writes `GJ_OK` (10_state.md R55). -/
def State.setGjOk (s : State) (v : Bool) : State := { s with gjOk := v }

/-- Writes `CRC_OUT` (10_state.md R56). -/
def State.setCrcOut (s : State) (v : BitVec 14) : State := { s with crcOut := v }

/-- Writes `TANH_Y` (10_state.md R58). -/
def State.setTanhY (s : State) (v : F64) : State := { s with tanhY := v }

/-- Counts a free value as drawn (log 7). -/
def State.drawn (s : State) : State := { s with draws := s.draws + 1 }

/-! ### Errors -/

/-- `raise Error(code)`: the first error since `ERR` was last 0 is kept (60_exceptions.md R301). -/
def State.raise (s : State) (c : ErrCode) : State :=
  { s with err := some (s.err.getD c) }

/-! ### Which words a command reads and writes -/

/-- The words of `HARD`. -/
def hardLocs : List Loc := (List.range 6).map .hard

/-- The words of `LLR`. -/
def llrLocs : List Loc := (List.range 174).flatMap fun i => [.llr i false, .llr i true]

/-- The words of `GJ_M`. -/
def gjLocs : List Loc := (List.range 174).flatMap fun r => (List.range 6).map (.gjM r)

/-- The words of `WHICH`. -/
def whichLocs : List Loc := (List.range 174).map .which

/-- The buffer words a command reads (10_state.md R82, U22); for CRC14 the `⌈N/32⌉` words that hold the message. -/
def inputLocs : Instr → List Loc
  | .check => hardLocs
  | .decodeProb _ => llrLocs
  | .decodeLlr _ => llrLocs
  | .crc14 n => (List.range ((n.toNat + 31) / 32)).map .crcMsg
  | .gjInvert => gjLocs ++ whichLocs
  | .tanh => [.tanhX false, .tanhX true]

/-- The words a command writes, but for `STATUS` (10_state.md R82). -/
def outputLocs : Instr → List Loc
  | .check => [.score]
  | .decodeProb _ => hardLocs ++ [.score, .itersRun]
  | .decodeLlr _ => hardLocs ++ [.score, .itersRun]
  | .crc14 _ => [.crcOut]
  | .gjInvert => gjLocs ++ whichLocs ++ [.gjOk]
  | .tanh => [.tanhY false, .tanhY true]

/-! ### Unspecified values -/

/-- The free value of draw number `n`, as a NaN encoding: every NaN encoding is possible (U24, log 7). -/
def freeNaN (n : Nat) : F64 := if (Config.freeF64 n).isNaN then Config.freeF64 n else .nan

/-- Gives one word an unspecified value: a fresh free value, reserved bits still 0 (U2, U23; 10_state.md R41; log 9). A
location no command writes is left alone. -/
def State.forget (s : State) (l : Loc) : State :=
  match l with
  | .score => s.drawn.setScore ((Config.freeWord s.draws).setWidth 7)
  | .itersRun => s.drawn.setItersRun ((Config.freeWord s.draws).setWidth 16)
  | .gjOk => s.drawn.setGjOk ((Config.freeWord s.draws).getLsbD 0)
  | .crcOut => s.drawn.setCrcOut ((Config.freeWord s.draws).setWidth 14)
  | .tanhY high => s.drawn.setTanhY (withWord64 s.tanhY high (Config.freeWord s.draws))
  | .hard w => s.drawn.store (.hard w) (Config.freeWord s.draws)
  | .which k => s.drawn.store (.which k) (Config.freeWord s.draws)
  | .gjM r w => s.drawn.store (.gjM r w) (Config.freeWord s.draws)
  | .id | .version | .ctrl | .status | .cmd | .tanhX _ | .crcMsg _ | .llr _ _ | .nmRom _ _ | .mnRom _ _ => s

/-- Gives every word of a list an unspecified value of its own. -/
def State.forgetAll (s : State) (ls : List Loc) : State := ls.foldl State.forget s

/-! ### Accepting a command -/

/-- Whether a buffer word holds a value. -/
def State.written (s : State) (l : Loc) : Bool := (s.mem.readWord l.offset).isSome

/-- The first word a command reads that nobody wrote. -/
def State.unwritten (s : State) (i : Instr) : Option Loc := (inputLocs i).find? fun l => !s.written l

/-- `CMD <- v; STATUS.DONE <- 0` of 30_encoding.md R138. -/
def State.accept (s : State) (i : Instr) : State := { s with cmd := encode i, done := false }

/-- Acceptance of a decoded command (30_encoding.md R138, in the order of 60_exceptions.md R306): `BUSY_ACCESS` while
busy, `BAD_ARG` for a CRC14 length above `CRC_NMAX`; a rejected word changes nothing else. An accepted command whose
input is unwritten is a model fault (10_state.md R67, U22); otherwise `run` says what it does. -/
def acceptCommand (i : Instr) (run : State → Host.Outcome State Fault Refusal) (s : State) :
    Host.Outcome State Fault Refusal :=
  if s.busy then .next (s.raise .busyAccess)
  else if !i.wellFormed then .next (s.raise .badArg)
  else match s.unwritten i with
    | some l => .fault (.unwrittenInput l.offset)
    | none => run (s.accept i)

/-! ### Resets -/

/-- An abandoned command leaves every word it writes unspecified (70_reset_and_hazards.md R342). -/
def State.abandon (s : State) : State :=
  match s.engine with
  | some r => s.forgetAll (outputLocs r.cmd)
  | none => s

/-- `CTRL.IE`, `STATUS` and `CMD` cleared and hidden state discarded (70_reset_and_hazards.md R342). -/
def State.clearControl (s : State) : State :=
  { s with ie := false, done := false, err := none, cmd := 0, engine := none }

/-- Soft reset (70_reset_and_hazards.md R342): a running command is abandoned, then the control registers are cleared;
every other word keeps its value. -/
def State.softReset (s : State) : State := s.abandon.clearControl

/-- Hardware reset (70_reset_and_hazards.md R340): the reset values, unwritten buffers, no hidden state; the tables and
what is outside the block are kept. -/
def State.hardReset (s : State) : State :=
  { State.reset with rom := s.rom, rst := s.rst, turns := s.turns, reads := s.reads, draws := s.draws }

/-! ### The bus address of the window -/

/-- `BASE_ADDR`, 32 KiB aligned (00_scope.md R10), log 14. -/
def baseAddr : Nat := 0x8000 * Config.basePage

/-- The bus address of an offset of the window (20_memory.md R102). -/
def busAddress (off : Offset) : Nat := baseAddr + off.toNat

/-- The offset the block sees for a bus address; none outside its window of 0x8000 bytes (10_state.md R40). -/
def offsetOfBus (a : Nat) : Option Offset :=
  if baseAddr ≤ a ∧ a < baseAddr + 0x8000 then some (BitVec.ofNat 15 (a - baseAddr)) else none

end Sys2Proof.Machine
end

