-- ==== Sys2Proof/Machine/Operands.lean ====
section
/-!
DEFINITION. Sys2Proof/Machine/Operands.lean: the operands of the commands as they stand in the buffers (10_state.md R57 to
R64, 00_scope.md R16, R17), and the writing of results back. A command reads these only after `acceptCommand` has found every
word it reads written, so the 0 that `word` gives for an unwritten word reaches no result.
-/
namespace Sys2Proof.Machine

/-- A bit vector of `n` bits from its bits, bit 0 first. -/
def bitsLE : (n : Nat) → (Nat → Bool) → BitVec n
  | 0, _ => 0#0
  | n + 1, f => BitVec.cons (f n) (bitsLE n f)

/-- A buffer word. -/
def State.word (s : State) (l : Loc) : Word := (s.mem.readWord l.offset).getD 0

/-- Six words as one bit vector, word 0 lowest: bit `k` is bit `k mod 32` of word `k div 32` (00_scope.md R17). -/
def sixWords (f : Nat → Word) : BitVec 192 := f 5 ++ f 4 ++ f 3 ++ f 2 ++ f 1 ++ f 0

/-- Word `w` of a packed bit vector, bits beyond its end 0 (00_scope.md R17). -/
def packedWord {n : Nat} (v : BitVec n) (w : Nat) : Word := v.extractLsb' (32 * w) 32

/-- The hard codeword in `HARD`; the reserved bits of `HARD[5]` are no part of it (10_state.md R61). -/
def State.hardWord (s : State) : Bits174 := (sixWords fun w => s.word (.hard w)).setWidth 174

/-- Writes a hard codeword to `HARD` (10_state.md R61, 41_scheduler.md R183). -/
def State.writeHard (s : State) (c : Bits174) : State :=
  s.storeAll ((List.range 6).map fun w => (.hard w, packedWord c w))

/-- `LLR[i]`, high word ‖ low word (10_state.md R60). -/
def State.llr (s : State) (i : Nat) : F64 := ⟨s.word (.llr i true) ++ s.word (.llr i false)⟩

/-- The LLR vector. -/
def State.llrs (s : State) : List F64 := (List.range 174).map s.llr

/-- The message bits `msg[0..n)` (10_state.md R62). -/
def State.crcMsg (s : State) (n : Nat) : List Bool :=
  (List.range n).map fun k => (s.word (.crcMsg (k / 32))).getLsbD (k % 32)

/-- `TANH_X` (10_state.md R57). -/
def State.tanhX (s : State) : F64 := ⟨s.word (.tanhX true) ++ s.word (.tanhX false)⟩

/-- Row `r` of the Gauss-Jordan matrix (10_state.md R64). -/
def State.gjRow (s : State) (r : Nat) : GjRow := (sixWords fun w => s.word (.gjM r w)).setWidth 182

/-- The 174 rows of the Gauss-Jordan matrix (46_gauss_jordan.md R270). -/
def State.gjRows (s : State) : List GjRow := (List.range 174).map s.gjRow

/-- The 174 row labels (46_gauss_jordan.md R272). -/
def State.labels (s : State) : List Label := (List.range 174).map fun k => (s.word (.which k)).setWidth 8

/-- Writes a matrix and its labels to `GJ_M` and `WHICH` (46_gauss_jordan.md R276). -/
def State.writeGj (s : State) (rows : List GjRow) (labels : List Label) : State :=
  let matrix := (List.range 174).flatMap fun r =>
    (List.range 6).map fun w => (Loc.gjM r w, packedWord (rows.getD r 0) w)
  let which := (List.range 174).map fun k => (Loc.which k, (labels.getD k 0).setWidth 32)
  s.storeAll (matrix ++ which)

end Sys2Proof.Machine
end

