-- ==== Sys2Proof/Machine/Deliver.lean ====
section
/-!
DEFINITION. Sys2Proof/Machine/Deliver.lean: the end of every command: its outputs are written, then `BUSY` is cleared and
`DONE` set (10_state.md R47, R48; 20_memory.md R109; 41_scheduler.md R183, OUT).
-/
namespace Sys2Proof.Machine

/-- What OUT writes: the word, its score and the iterations run. A decode that ended early emits `CW` with score 83
(41_scheduler.md R185); one that exhausted its budget emits `BEST` (R186). -/
def Decoder.result (d : Decoder) : Bits174 × Nat × Nat :=
  if d.early then (d.cw, 83, d.nit) else (d.best, d.bestScore, d.iters)

/-- `CRC_OUT` from the CRC bits: `out[k]` at bit `13 - k` (45_crc14.md R262). -/
def packCrc (out : List Bool) : BitVec 14 := bitsLE 14 fun b => out.getD (13 - b) false

/-- The outputs of a finished command: `SCORE` (40_parity_check.md R170); `HARD`, `SCORE` and `ITERS_RUN`
(41_scheduler.md R183); `CRC_OUT` (45_crc14.md R262); `GJ_OK`, `GJ_M` and `WHICH`, unspecified after a failure
(46_gauss_jordan.md R275, R276); `TANH_Y`, any encoding where it is a NaN (44_tanh.md R246). -/
def State.writeOutputs (s : State) : Work → State
  | .check score => s.setScore (BitVec.ofNat 7 score)
  | .decode d =>
    ((s.writeHard d.result.1).setScore (BitVec.ofNat 7 d.result.2.1)).setItersRun (BitVec.ofNat 16 d.result.2.2)
  | .crc14 n scr => s.setCrcOut (packCrc (scr.drop n))
  | .gjInvert _ rows labels failed =>
    if failed then (s.forgetAll (gjLocs ++ whichLocs)).setGjOk false else (s.writeGj rows labels).setGjOk true
  | .tanh y => if y.isNaN then s.drawn.setTanhY (freeNaN s.draws) else s.setTanhY y

/-- `STATUS.BUSY <- 0; STATUS.DONE <- 1`; hidden state has no meaning from here on (10_state.md R47, R48, R81). -/
def State.complete (s : State) : State := { s with engine := none, done := true }

/-- The completion of a command: outputs, then flags (20_memory.md R109). -/
def State.deliver (s : State) (w : Work) : State := (s.writeOutputs w).complete

end Sys2Proof.Machine
end

