-- ==== Sys2Proof/Machine/Crc.lean ====
section
/-!
DEFINITION. Sys2Proof/Machine/Crc.lean: the CRC-14 division (45_crc14.md R255, R256) and CRC14 (R262).
-/
namespace Sys2Proof.Machine

/-- The generator `G[0..15)` (45_crc14.md R255). -/
def crcGen : List Bool :=
  [true, true, false, false, true, true, true, false, true, false, true, false, true, true, true]

/-- `SCR[i + k] <- SCR[i + k] xor G[k]` for `k` in [0, 15) (45_crc14.md R256). -/
def xorGen (scr : List Bool) (i : Nat) : List Bool :=
  scr.mapIdx fun k b => if i ≤ k ∧ k < i + 15 then b ^^ crcGen.getD (k - i) false else b

/-- One position of the sweep (45_crc14.md R256). -/
def crcStep (scr : List Bool) (i : Nat) : List Bool := if scr.getD i false then xorGen scr i else scr

/-- The sweep over positions `i` in [0, n) (45_crc14.md R256). -/
def crcSweep (n : Nat) (scr : List Bool) : List Bool := (List.range n).foldl crcStep scr

/-- The scratch at the start: the message and 14 zeros (45_crc14.md R256). -/
def crcScratch (msg : List Bool) : List Bool := msg ++ List.replicate 14 false

/-- `CRC_FN(msg, N)` with `N` the length of `msg` (45_crc14.md R256). -/
def crcFn (msg : List Bool) : List Bool := (crcSweep msg.length (crcScratch msg)).drop msg.length

/-- CRC14: `CRC_OUT` becomes the CRC of the first `n` bits of `CRC_MSG` (45_crc14.md R262). -/
def execCrc14 (n : BitVec 16) (s : State) : Host.Outcome State Fault Refusal :=
  acceptCommand (.crc14 n)
    (fun s => .next (s.deliver (.crc14 n.toNat (crcSweep n.toNat (crcScratch (s.crcMsg n.toNat)))))) s

end Sys2Proof.Machine
end

