-- ==== Sys2Proof/Machine/GaussJordan.lean ====
section
/-!
DEFINITION. Sys2Proof/Machine/GaussJordan.lean: the binary Gauss-Jordan sweep (46_gauss_jordan.md R274) and GJ_INVERT
(R276).
-/
namespace Sys2Proof.Machine

/-- The matrix and its row labels. -/
structure Gj where
  rows : List GjRow
  labels : List Label
  deriving DecidableEq, Repr

/-- `m[r]`. -/
def Gj.row (g : Gj) (r : Nat) : GjRow := g.rows.getD r 0

/-- `m[r][c]`. -/
def Gj.bit (g : Gj) (r c : Nat) : Bool := (g.row r).getLsbD c

/-- The least `k` in [r + 1, 174) with `m[k][r] = 1`, row 173 included (46_gauss_jordan.md R274, C11). -/
def Gj.findPivot (g : Gj) (r : Nat) : Option Nat :=
  (List.range' (r + 1) (173 - r)).find? fun k => g.bit k r

/-- Exchanges entries `a` and `b` of a list. -/
def swapAt {α : Type} (l : List α) (zero : α) (a b : Nat) : List α :=
  (l.set a (l.getD b zero)).set b (l.getD a zero)

/-- Swaps two rows, all 182 columns, and their labels (46_gauss_jordan.md R273, R274). -/
def Gj.swap (g : Gj) (a b : Nat) : Gj := ⟨swapAt g.rows 0 a b, swapAt g.labels 0 a b⟩

/-- Puts a row with a 1 in column `r` at row `r`, if there is one (46_gauss_jordan.md R274). -/
def Gj.pivot (g : Gj) (r : Nat) : Option Gj :=
  if g.bit r r then some g else (g.findPivot r).map fun k => g.swap r k

/-- `m[r][91 + r] <- m[r][91 + r] xor 1`, the lazy identity (46_gauss_jordan.md R274). -/
def Gj.toggle (g : Gj) (r : Nat) : Gj :=
  { g with rows := g.rows.set r (g.row r ^^^ BitVec.twoPow 182 (91 + r)) }

/-- Adds row `r` to every other row that has a 1 in column `r` (46_gauss_jordan.md R274). -/
def Gj.eliminate (g : Gj) (r : Nat) : Gj :=
  { g with rows := g.rows.mapIdx fun k x => if k ≠ r ∧ x.getLsbD r then x ^^^ g.row r else x }

/-- The work of pivot row `r`; none where no pivot is found (46_gauss_jordan.md R274). -/
def Gj.step (g : Gj) (r : Nat) : Option Gj := (g.pivot r).map fun g => (g.toggle r).eliminate r

/-- The sweep over `n` pivot rows from `r` on: its work when it ends, successfully or without a pivot
(46_gauss_jordan.md R274). -/
def gjSweep : (n : Nat) → (r : Nat) → Gj → Work
  | 0, r, g => .gjInvert r g.rows g.labels false
  | n + 1, r, g =>
    match g.step r with
    | none => .gjInvert r g.rows g.labels true
    | some g => gjSweep n (r + 1) g

/-- `GJ_INVERT`: the sweep over the 91 pivot rows of `GJ_M` with the labels of `WHICH` (46_gauss_jordan.md R276). -/
def execGjInvert (s : State) : Host.Outcome State Fault Refusal :=
  acceptCommand .gjInvert (fun s => .next (s.deliver (gjSweep 91 0 ⟨s.gjRows, s.labels⟩))) s

end Sys2Proof.Machine
end

