-- ==== Sys2Proof/Machine/Parity.lean ====
section
/-!
DEFINITION. Sys2Proof/Machine/Parity.lean: CHECK (40_parity_check.md R170). The Tanner graph and the score are in
Machine/Graph.lean.
-/
namespace Sys2Proof.Machine

/-- CHECK: `SCORE` becomes the number of satisfied parity equations of the word in `HARD` (40_parity_check.md R170). -/
def execCheck (s : State) : Host.Outcome State Fault Refusal :=
  acceptCommand .check (fun s => .next (s.deliver (.check (scoreOf s.rom s.hardWord)))) s

end Sys2Proof.Machine
end

