-- ==== Sys2Proof/Machine/Tanh.lean ====
section
/-!
DEFINITION. Sys2Proof/Machine/Tanh.lean: the fast tanh approximator (44_tanh.md R240) and TANH (R246).
-/
namespace Sys2Proof.Machine

/-- The numerator of `f`, in the document's nesting (44_tanh.md R240). -/
def tanhNum (x x2 : F64) : F64 :=
  x.mul ((F64.ofNat 135135).add (x2.mul ((F64.ofNat 17325).add (x2.mul ((F64.ofNat 378).add x2)))))

/-- The denominator of `f`, in the document's nesting (44_tanh.md R240). -/
def tanhDen (x2 : F64) : F64 :=
  (F64.ofNat 135135).add (x2.mul ((F64.ofNat 62370).add (x2.mul ((F64.ofNat 3150).add ((F64.ofNat 28).mul x2)))))

/-- `TANH_APPROX(x)` (44_tanh.md R240). -/
def tanhApprox (x : F64) : F64 :=
  if x.lt F64.c7_6.neg then F64.c0_999.neg
  else if F64.c7_6.lt x then F64.c0_999
  else (tanhNum x (x.mul x)).div (tanhDen (x.mul x))

/-- TANH: `TANH_Y` becomes `TANH_APPROX` of `TANH_X` (44_tanh.md R246). -/
def execTanh (s : State) : Host.Outcome State Fault Refusal :=
  acceptCommand .tanh (fun s => .next (s.deliver (.tanh (tanhApprox s.tanhX)))) s

end Sys2Proof.Machine
end

