-- ==== Sys2Proof/Machine/Llr.lean ====
section
/-!
DEFINITION. Sys2Proof/Machine/Llr.lean: the LLR-domain engines (43_decode_llr.md R221 to R224). Products and sums run in
the slot order of `ROW(j)` and `COL(i)` (40_parity_check.md R164).
-/
namespace Sys2Proof.Machine

/-- The clamp and the logarithm of `CN_LLR`; the clamp is tested first (43_decode_llr.md R222). -/
def clampedLog (a : F64) : F64 :=
  if F64.c0_999.le a then F64.c7_6
  else if a.le F64.c0_999.neg then F64.c7_6.neg
  else ((F64.one.add a).div (F64.one.sub a)).log

/-- `CN_LLR(j, i1)` (43_decode_llr.md R222). -/
def cnLlr (t : Tables) (m : List (List F64)) (j i1 : Nat) : F64 :=
  clampedLog (((row t j).filter (· ≠ i1)).foldl
    (fun a i2 => a.mul (tanhApprox ((message t m j i2).div F64.two))) F64.one)

/-- `Lc[i]` plus the messages of a list of checks (43_decode_llr.md R223, R224). -/
def llrSum (t : Tables) (l : F64) (e : List (List F64)) (i : Nat) (checks : List Nat) : F64 :=
  checks.foldl (fun l j => l.add (message t e j i)) l

/-- `HD_LLR(i)` (43_decode_llr.md R223). -/
def hdLlr (t : Tables) (lc : List F64) (e : List (List F64)) (i : Nat) : Bool :=
  (llrSum t (lc.getD i F64.zero) e i (col t i)).le F64.zero

/-- `VN_LLR(i, j1)` (43_decode_llr.md R224). -/
def vnLlr (t : Tables) (lc : List F64) (e : List (List F64)) (i j1 : Nat) : F64 :=
  llrSum t (lc.getD i F64.zero) e i ((col t i).filter (· ≠ j1))

end Sys2Proof.Machine
end

