-- ==== Sys2Proof/Machine/Prob.lean ====
section
/-!
DEFINITION. Sys2Proof/Machine/Prob.lean: the probability-domain engines (42_decode_prob.md R201 to R205). Products run in
the slot order of `ROW(j)` and `COL(i)` (40_parity_check.md R164).
-/
namespace Sys2Proof.Machine

/-- `P[i]` from `Lc[i]` (42_decode_prob.md R201). -/
def probOf (lc : F64) : F64 := lc.exp.div (F64.one.add lc.exp)

/-- `CN_PROB(j, i1)` (42_decode_prob.md R202). -/
def cnProb (t : Tables) (m : List (List F64)) (j i1 : Nat) : F64 :=
  let a := ((row t j).filter (· ≠ i1)).foldl
    (fun a i2 => a.mul ((F64.two.mul (message t m j i2)).sub F64.one)) F64.one
  (F64.one.add a).div F64.two

/-- `q0` and `q1` over a list of checks, starting from `P[i]` and `1 - P[i]` (42_decode_prob.md R203, R204). -/
def probProducts (t : Tables) (p : F64) (e : List (List F64)) (i : Nat) (checks : List Nat) : F64 × F64 :=
  checks.foldl
    (fun (q0, q1) j => (q0.mul (message t e j i), q1.mul (F64.one.sub (message t e j i)))) (p, F64.one.sub p)

/-- `q0 / (q0 + q1)`, and exactly 1.0 where `q0` compares equal to 0 (42_decode_prob.md R203 to R205). -/
def guardedRatio (q : F64 × F64) : F64 :=
  if q.1.eq F64.zero then F64.one else q.1.div (q.1.add q.2)

/-- `HD_PROB(i)` (42_decode_prob.md R203). -/
def hdProb (t : Tables) (p : List F64) (e : List (List F64)) (i : Nat) : Bool :=
  (guardedRatio (probProducts t (p.getD i F64.zero) e i (col t i))).le F64.half

/-- `VN_PROB(i, j1)` (42_decode_prob.md R204). -/
def vnProb (t : Tables) (p : List F64) (e : List (List F64)) (i j1 : Nat) : F64 :=
  guardedRatio (probProducts t (p.getD i F64.zero) e i ((col t i).filter (· ≠ j1)))

end Sys2Proof.Machine
end

