-- ==== Sys2Proof/Machine/Scheduler.lean ====
section
/-!
DEFINITION. Sys2Proof/Machine/Scheduler.lean: the message-passing scheduler (41_scheduler.md R180 to R187), and
DECODE_PROB (42_decode_prob.md R210) and DECODE_LLR (43_decode_llr.md R230) over it. Each phase is a function of its own;
Machine/Engine.lean runs the same functions one at a time.
-/
namespace Sys2Proof.Machine

/-- `CN_dom`. -/
def Domain.cn (dom : Domain) (t : Tables) (m : List (List F64)) (j i : Nat) : F64 :=
  match dom with
  | .prob => cnProb t m j i
  | .llr => cnLlr t m j i

/-- `HD_dom`. -/
def Decoder.decide (d : Decoder) (t : Tables) (i : Nat) : Bool :=
  match d.dom with
  | .prob => hdProb t d.p d.e i
  | .llr => hdLlr t d.lc d.e i

/-- `VN_dom`. -/
def Decoder.update (d : Decoder) (t : Tables) (j i : Nat) : F64 :=
  match d.dom with
  | .prob => vnProb t d.p d.e i j
  | .llr => vnLlr t d.lc d.e i j

/-- A decode at acceptance: `Lc` holds a copy of `LLR` (41_scheduler.md R181); the other state is made by INIT. -/
def Decoder.start (dom : Domain) (iters : Nat) (lc : List F64) : Decoder where
  dom := dom
  iters := iters
  nit := 0
  lc := lc
  p := []
  m := []
  e := []
  cw := 0
  best := 0
  bestScore := 0
  early := false

/-- The sign decode: bit `i` is 1 where `Lc[i] ≤ 0` (41_scheduler.md R182). -/
def signDecode (lc : List F64) : Bits174 := bitsLE 174 fun i => (lc.getD i F64.zero).le F64.zero

/-- `M[j][i]` at the start is `P[i]` or `Lc[i]` (42_decode_prob.md R201, 43_decode_llr.md R221). -/
def Decoder.channel (d : Decoder) (i : Nat) : F64 :=
  match d.dom with
  | .prob => probOf (d.lc.getD i F64.zero)
  | .llr => d.lc.getD i F64.zero

/-- INIT: `INIT_dom` and the seed (41_scheduler.md R182, R183; 42_decode_prob.md R201; 43_decode_llr.md R221). -/
def Decoder.init (d : Decoder) (t : Tables) : Decoder :=
  { d with
    p := match d.dom with
      | .prob => d.lc.map probOf
      | .llr => []
    m := onEdges t fun _ i => d.channel i
    e := onEdges t fun _ _ => F64.zero
    best := signDecode d.lc
    bestScore := scoreOf t (signDecode d.lc) }

/-- The next value of `NIT`. -/
def Decoder.nextIteration (d : Decoder) : Decoder := { d with nit := d.nit + 1 }

/-- CN, the check update of every edge (41_scheduler.md R183). -/
def Decoder.checkUpdate (d : Decoder) (t : Tables) : Decoder := { d with e := onEdges t (d.dom.cn t d.m) }

/-- HD, the hard decision of every bit (41_scheduler.md R183). -/
def Decoder.hardDecision (d : Decoder) (t : Tables) : Decoder := { d with cw := bitsLE 174 (d.decide t) }

/-- TEST: a score of 83 ends the decode; a strictly greater score than the best replaces the best
(41_scheduler.md R183, R185, R187). -/
def Decoder.test (d : Decoder) (t : Tables) : Decoder :=
  if scoreOf t d.cw = 83 then { d with early := true }
  else if d.bestScore < scoreOf t d.cw then { d with best := d.cw, bestScore := scoreOf t d.cw }
  else d

/-- VN, the variable update of every edge (41_scheduler.md R183). -/
def Decoder.variableUpdate (d : Decoder) (t : Tables) : Decoder := { d with m := onEdges t (d.update t) }

/-- The iterations that remain, `n` of them (41_scheduler.md R183). -/
def Decoder.loop (t : Tables) : (n : Nat) → Decoder → Decoder
  | 0, d => d
  | n + 1, d =>
    let d := ((d.nextIteration.checkUpdate t).hardDecision t).test t
    if d.early then d else Decoder.loop t n (d.variableUpdate t)

/-- `DECODE(dom, iters)` up to OUT (41_scheduler.md R183). -/
def Decoder.run (dom : Domain) (iters : Nat) (t : Tables) (lc : List F64) : Decoder :=
  Decoder.loop t iters ((Decoder.start dom iters lc).init t)

/-- DECODE_PROB: the scheduler in the probability domain (42_decode_prob.md R210). -/
def execDecodeProb (iters : BitVec 16) (s : State) : Host.Outcome State Fault Refusal :=
  acceptCommand (.decodeProb iters)
    (fun s => .next (s.deliver (.decode (Decoder.run .prob iters.toNat s.rom s.llrs)))) s

/-- DECODE_LLR: the scheduler in the LLR domain (43_decode_llr.md R230). -/
def execDecodeLlr (iters : BitVec 16) (s : State) : Host.Outcome State Fault Refusal :=
  acceptCommand (.decodeLlr iters)
    (fun s => .next (s.deliver (.decode (Decoder.run .llr iters.toNat s.rom s.llrs)))) s

end Sys2Proof.Machine
end

