-- ==== Sys2Proof/Machine/Dispatch.lean ====
section
/-!
DEFINITION. Sys2Proof/Machine/Dispatch.lean: the meaning of each command: the HOST writes its word to `CMD`
(30_encoding.md R138) and the ENGINE, if it accepts it, runs it to completion.
-/
namespace Sys2Proof.Machine

def exec (i : Instr) (s : State) : Host.Outcome State Fault Refusal :=
  match i with
  | .check => Sys2Proof.Machine.execCheck s
  | .decodeProb iters => Sys2Proof.Machine.execDecodeProb iters s
  | .decodeLlr iters => Sys2Proof.Machine.execDecodeLlr iters s
  | .crc14 n => Sys2Proof.Machine.execCrc14 n s
  | .gjInvert => Sys2Proof.Machine.execGjInvert s
  | .tanh => Sys2Proof.Machine.execTanh s

end Sys2Proof.Machine
end

