-- ==== Sys2Proof/Machine/Engine.lean ====
section
/-!
DEFINITION. Sys2Proof/Machine/Engine.lean: the ENGINE at work on a command it was left running (00_scope.md R18,
10_state.md R80, 41_scheduler.md R183): how a command begins and what one move of the ENGINE does. A move is the work of
the present phase; GJ_INVERT takes one move for each pivot row, at phase INIT, and the other commands but the decodes
compute in one move, at phase INIT (log 10).
-/
namespace Sys2Proof.Machine

/-- The hidden state a command is accepted with (10_state.md R81). -/
def startWork (i : Instr) (s : State) : Work :=
  match i with
  | .check => .check 0
  | .decodeProb iters => .decode (Decoder.start .prob iters.toNat s.llrs)
  | .decodeLlr iters => .decode (Decoder.start .llr iters.toNat s.llrs)
  | .crc14 n => .crc14 n.toNat (crcScratch (s.crcMsg n.toNat))
  | .gjInvert => .gjInvert 0 s.gjRows s.labels false
  | .tanh => .tanh F64.zero

/-- Acceptance alone: `STATUS.BUSY <- 1` and the ENGINE begins the command (30_encoding.md R138). -/
def beginCommand (i : Instr) (s : State) : Host.Outcome State Fault Refusal :=
  acceptCommand i (fun s => .next { s with engine := some ⟨i, .init, startWork i s⟩ }) s

/-- The phase after INIT, or after VN: the next iteration while the budget lasts, else OUT (41_scheduler.md R183). -/
def Decoder.proceed (d : Decoder) : Phase × Decoder :=
  if d.nit < d.iters then (.cn, d.nextIteration) else (.finish, d)

/-- One phase of a decode (41_scheduler.md R183). -/
def Decoder.move (t : Tables) : Phase → Decoder → Phase × Decoder
  | .init, d => (d.init t).proceed
  | .cn, d => (.hd, d.checkUpdate t)
  | .hd, d => (.test, d.hardDecision t)
  | .test, d => if (d.test t).early then (.finish, d.test t) else (.vn, d.test t)
  | .vn, d => (d.variableUpdate t).proceed
  | .finish, d => (.finish, d)

/-- One pivot row of GJ_INVERT (46_gauss_jordan.md R274). -/
def gjMove (gr : Nat) (g : Gj) : Phase × Work :=
  match g.step gr with
  | none => (.finish, .gjInvert gr g.rows g.labels true)
  | some g => (if gr + 1 < 91 then .init else .finish, .gjInvert (gr + 1) g.rows g.labels false)

/-- The work of the present phase of a running command, and the phase after it. -/
def Running.advance (r : Running) (s : State) : Running :=
  match r.work with
  | .check _ => { r with phase := .finish, work := .check (scoreOf s.rom s.hardWord) }
  | .decode d =>
    { r with phase := (Decoder.move s.rom r.phase d).1, work := .decode (Decoder.move s.rom r.phase d).2 }
  | .crc14 n scr => { r with phase := .finish, work := .crc14 n (crcSweep n scr) }
  | .gjInvert gr rows labels _ =>
    { r with phase := (gjMove gr ⟨rows, labels⟩).1, work := (gjMove gr ⟨rows, labels⟩).2 }
  | .tanh _ => { r with phase := .finish, work := .tanh (tanhApprox s.tanhX) }

/-- One move of the ENGINE: at FINISH it writes the outputs and completes; an idle ENGINE does nothing. -/
def State.engineMove (s : State) : State :=
  match s.engine with
  | none => s
  | some r => if r.phase = .finish then s.deliver r.work else { s with engine := some (r.advance s) }

/-- `n` moves of the ENGINE. -/
def State.engineMoves : (n : Nat) → State → State
  | 0, s => s
  | n + 1, s => State.engineMoves n s.engineMove

end Sys2Proof.Machine
end

