-- ==== Sys2Proof/Machine/Bus.lean ====
section
/-!
DEFINITION. Sys2Proof/Machine/Bus.lean: the HOST's accesses (20_memory.md R100 to R111), their errors (60_exceptions.md
R300 to R308), and the turns of HOST, ENGINE and `rst`.
-/
namespace Sys2Proof.Machine

/-- The words the running command writes (20_memory.md R111, 10_state.md R82). -/
def State.runningOutputs (s : State) : List Loc :=
  match s.engine with
  | some r => outputLocs r.cmd
  | none => []

/-- Answers a host read with a value (00_scope.md R19). -/
def State.answer (s : State) (v : Word) : State := { s with reads := v :: s.reads }

/-- A host read. One that is malformed or names no mapped word returns 0 and records `BAD_ACCESS` (20_memory.md R101,
60_exceptions.md R302); one of a word the running command writes returns any value (20_memory.md R111); one of a word
nobody wrote is a model fault (10_state.md R67); any other returns what the location holds. Reads have no side effects
(20_memory.md R105). -/
def hostRead (off : Offset) (lanes : BitVec 4) (s : State) : Host.Outcome State Fault Refusal :=
  match target off lanes with
  | none => .next ((s.raise .badAccess).answer 0)
  | some l =>
    if s.runningOutputs.contains l then
      .next (s.drawn.answer (Config.freeWord s.draws))
    else match s.readLoc l with
      | some v => .next (s.answer v)
      | none => .fault (.unwrittenRead off.toNat)

/-- A host write to `CMD` (30_encoding.md R138): `BUSY_ACCESS` while busy; `ILLEGAL_CMD` where the word is no command;
otherwise the command is issued, and run to completion at once where the turn is prompt (70_reset_and_hazards.md R350). -/
def issue (v : Word) (prompt : Bool) (s : State) : Host.Outcome State Fault Refusal :=
  if s.busy then .next (s.raise .busyAccess)
  else match decode v with
    | .error _ => .next (s.raise .illegalCmd)
    | .ok i => if prompt then exec i s else beginCommand i s

/-- A host write to `CTRL`: `SRST` resets, whatever the other bits; otherwise `IE` takes the written bit (10_state.md R44 to
R46). -/
def State.writeCtrl (s : State) (v : Word) : State :=
  if v.getLsbD 1 then s.softReset else { s with ie := v.getLsbD 0 }

/-- A host write to a buffer word: refused with `BUSY_ACCESS` while busy, else its data bits are stored (20_memory.md R110,
10_state.md R41). -/
def State.writeBuffer (s : State) (l : Loc) (v : Word) : State :=
  if s.busy then s.raise .busyAccess else s.store l v

/-- A host write, its errors in the order of 60_exceptions.md R306: malformed, unmapped or read-only (`BAD_ACCESS`,
R302); `CTRL` and `STATUS` are accepted while busy (20_memory.md R110); the rest by `issue` and `writeBuffer`. -/
def hostWrite (off : Offset) (lanes : BitVec 4) (v : Word) (prompt : Bool) (s : State) :
    Host.Outcome State Fault Refusal :=
  match target off lanes with
  | none => .next (s.raise .badAccess)
  | some l =>
    if l.readOnly then .next (s.raise .badAccess)
    else match l with
      | .ctrl => .next (s.writeCtrl v)
      | .status => .next (s.clearStatus v)
      | .cmd => issue v prompt s
      | _ => .next (s.writeBuffer l v)

/-- One access of the HOST. -/
def hostAccess (a : Access) (prompt : Bool) (s : State) : Host.Outcome State Fault Refusal :=
  match a with
  | .read off lanes => hostRead off lanes s
  | .write off lanes v => hostWrite off lanes v prompt s

/-- One turn (70_reset_and_hazards.md R340, R341, R351; log 1, log 11). -/
def perform (t : Turn) (s : State) : Host.Outcome State Fault Refusal :=
  match t with
  | .host a prompt => if s.rst then .refused .accessDuringReset else hostAccess a prompt s
  | .engine => .next s.engineMove
  | .assertRst => .next { s.hardReset with rst := true }
  | .releaseRst => .next { s with rst := false }

/-- The next turn; with none to come the ENGINE moves, so that every accepted command completes (70_reset_and_hazards.md
R351), and an idle block stays as it is. -/
def takeTurn (s : State) : Host.Outcome State Fault Refusal :=
  match s.turns with
  | [] => .next s.engineMove
  | t :: rest => perform t { s with turns := rest }

/-- The HOST's write of a command word to `CMD`, completed before anything else happens. -/
def commandTurn (v : Word) : Turn := .host (.write 0x0010 0xF v) true

/-- The block idle with `rst` released, and the HOST about to write `v` to `CMD` (log 1). -/
def State.present (s : State) (v : Word) : State :=
  { s with engine := none, rst := false, turns := commandTurn v :: s.turns }

end Sys2Proof.Machine
end

