-- ==== Sys2Proof/Machine/Step.lean ====
section
/-!
DEFINITION. Sys2Proof/Machine/Step.lean: one step of the machine, and where a step takes its next command from.
-/
namespace Sys2Proof.Machine

/-- One step: the next turn of HOST, ENGINE or `rst` (70_reset_and_hazards.md R351). -/
def step (s : State) : Host.Outcome State Fault Refusal := takeTurn s

/-- `s` with the HOST about to write the command whose bits are `w` (bits above `nbits` zero) to an idle block: the block
fetches nothing (10_state.md R71), a command comes to it by a write to `CMD` (20_memory.md R114), log 1. -/
def State.withFetchWord (s : State) (nbits w : Nat) : State := s.present (tableWord nbits w)

end Sys2Proof.Machine
end

