-- ==== Sys2Proof/Safety.lean ====
section
/-!
DEFINITION. Sys2Proof/Safety.lean: the terms claims use: when a command is accepted and runs, what a well-formed state is,
and what a safe run is.
-/
namespace Sys2Proof.Machine

/-- The conditions on state and operands under which a command is accepted and runs: no command is running
(30_encoding.md R138), its argument is legal (R137), and every buffer word it reads was written (10_state.md R67, U22). -/
def Ready (i : Instr) (s : State) : Prop :=
  s.busy = false ∧ i.wellFormed = true ∧ ∀ l ∈ inputLocs i, s.written l = true

/-- The buffer words of the window, in rising order of their offsets (10_state.md R57, R60 to R64). -/
def bufferLocs : List Loc :=
  [.tanhX false, .tanhX true] ++ hardLocs ++ (List.range 8).map .crcMsg ++ llrLocs ++ whichLocs ++ gjLocs

/-- The mapped locations of the window that are no buffer words (10_state.md R42 to R58, R65, R66). -/
def registerLocs : List Loc :=
  [.id, .version, .ctrl, .status, .cmd, .score, .itersRun, .gjOk, .crcOut, .tanhY false, .tanhY true] ++
    ((List.range 83).flatMap fun j => (List.range 7).map (.nmRom j)) ++
    ((List.range 174).flatMap fun i => (List.range 3).map (.mnRom i))

/-- Every mapped location of the window (10_state.md R40). -/
def windowLocs : List Loc := registerLocs ++ bufferLocs

/-- The offset of a location as a host presents it. -/
def Loc.bus (l : Loc) : Offset := BitVec.ofNat 15 l.offset

/-- The byte of the buffers at a window offset, if it holds a value. -/
def State.readByte (s : State) (a : Nat) : Option Byte := s.mem.read a

/-- Whether offset `a` is one of the four bytes of location `l`. -/
abbrev Loc.covers (l : Loc) (a : Nat) : Prop := l.offset ≤ a ∧ a < l.offset + 4

/-- Only bytes of buffer words hold values. -/
def Memory.onlyBuffers (m : Memory) : Prop := ∀ a v, m.read a = some v → ∃ l ∈ bufferLocs, l.covers a

/-- A buffer word is written whole or not at all (20_memory.md R104). -/
def Memory.wholeWords (m : Memory) : Prop :=
  ∀ l ∈ bufferLocs, ∀ a, l.covers a → ((m.read a).isSome = true ↔ (m.readWord l.offset).isSome = true)

/-- The reserved bits of a written buffer word are 0 (10_state.md R41). -/
def Memory.reservedZero (m : Memory) : Prop :=
  ∀ l ∈ bufferLocs, ∀ v, m.readWord l.offset = some v → v &&& l.mask = v

/-- The invariant of the buffers: the one form of a memory, and R41 and R104 of its words. -/
def State.BufferInv (s : State) : Prop :=
  s.mem.wf ∧ s.mem.onlyBuffers ∧ s.mem.wholeWords ∧ s.mem.reservedZero

/-- The work a running command can hold: its own kind of work, a decode's counter within its budget and, once INIT is
done, `BEST_SCORE` the score of `BEST`, `GR` a pivot row until the sweep is over (10_state.md R80; 41_scheduler.md R182,
R187; 46_gauss_jordan.md R274). -/
def Running.workOk (r : Running) (t : Tables) : Prop :=
  match r.cmd, r.work with
  | .check, .check _ => True
  | .decodeProb n, .decode d =>
    d.dom = .prob ∧ d.iters = n.toNat ∧ d.nit ≤ d.iters ∧ (r.phase ≠ .init → d.bestScore = scoreOf t d.best)
  | .decodeLlr n, .decode d =>
    d.dom = .llr ∧ d.iters = n.toNat ∧ d.nit ≤ d.iters ∧ (r.phase ≠ .init → d.bestScore = scoreOf t d.best)
  | .crc14 n, .crc14 k _ => k = n.toNat
  | .gjInvert, .gjInvert gr _ _ _ => gr ≤ 91 ∧ (r.phase ≠ .finish → gr < 91)
  | .tanh, .tanh _ => True
  | _, _ => False

/-- The invariant of the ENGINE: while a command runs, `CMD` holds its word and `DONE` is 0 (10_state.md R48, R52), its
inputs are written and stay as they are (20_memory.md R110), and its work is of its own kind. -/
def State.EngineInv (s : State) : Prop :=
  ∀ r, s.engine = some r →
    s.cmd = encode r.cmd ∧ s.done = false ∧ r.cmd.wellFormed = true ∧
      (∀ l ∈ inputLocs r.cmd, s.written l = true) ∧ r.workOk s.rom

/-- The decode command of a domain (41_scheduler.md R183). -/
def decodeInstr (dom : Domain) (iters : BitVec 16) : Instr :=
  match dom with
  | .prob => .decodeProb iters
  | .llr => .decodeLlr iters

/-- One iteration without its TEST: check update, hard decision, variable update (41_scheduler.md R183). -/
def plainIteration (t : Tables) (d : Decoder) : Decoder :=
  ((d.nextIteration.checkUpdate t).hardDecision t).variableUpdate t

/-- The hard decision of iteration `k` of a decode of `lc`, for `k` at least 1, had no earlier iteration ended the decode
(41_scheduler.md R183). -/
def hardDecisionAt (dom : Domain) (t : Tables) (lc : List F64) (k : Nat) : Bits174 :=
  ((plainIteration t)^[k] ((Decoder.start dom 0 lc).init t)).cw

/-- A bit sequence as a polynomial over GF(2), its first bit the highest coefficient (45_crc14.md R257). -/
noncomputable def bitPolynomial (bits : List Bool) : Polynomial (ZMod 2) :=
  bits.foldl (fun p b => p * Polynomial.X + (if b then 1 else 0)) 0

/-- The values of 70_reset_and_hazards.md R340, as a host reads them: no buffer word holds a value, no command runs and
`irq` is 0. -/
def State.ResetValues (s : State) : Prop :=
  s.readLoc .id = some 0x4C445043 ∧ s.readLoc .version = some 0x00010000 ∧ s.readLoc .ctrl = some 0 ∧
    s.readLoc .status = some 0 ∧ s.readLoc .cmd = some 0 ∧ s.readLoc .score = some 0 ∧
    s.readLoc .itersRun = some 0 ∧ s.readLoc .gjOk = some 0 ∧ s.readLoc .crcOut = some 0 ∧
    s.readLoc (.tanhY false) = some 0 ∧ s.readLoc (.tanhY true) = some 0 ∧
    (∀ l ∈ bufferLocs, s.readLoc l = none) ∧ s.engine = none ∧ s.irq = false

/-- A safe run of `n` steps: no model fault and no refusal, so that every claim about it is one about the block
(10_state.md R67, 70_reset_and_hazards.md R341). -/
def SafeRun (n : Nat) (s : State) : Prop := ∃ t, core.run n s = .next t

end Sys2Proof.Machine
end

