-- ==== Sys2Proof/Certificates/Slice0/Obligations.lean ====
section
/-!
DEFINITION. Sys2Proof/Certificates/Slice0/Obligations.lean: the statements for the provers. Each says which rule or section
of spec/ it formalises.
-/

open Sys2Proof Sys2Proof.Machine

/-! ### Encoding -/

/-- Words of 95_test_vectors.md 2.1 (EN1 to EN17) decode as 30_encoding.md says. -/
def Obligations.SpecWordsDecode : Prop :=
  decode 0x00000001 = .ok .check ∧ decode 0x00010002 = .ok (.decodeProb 1) ∧
    decode 0x00000002 = .ok (.decodeProb 0) ∧ decode 0xFFFF0003 = .ok (.decodeLlr 65535) ∧
    decode 0x004D0004 = .ok (.crc14 77) ∧ decode 0x01000004 = .ok (.crc14 256) ∧
    decode 0x00000005 = .ok .gjInvert ∧ decode 0x00000006 = .ok .tanh ∧
    decode 0x00000000 = .error .reservedOpc ∧ decode 0x00000007 = .error .reservedOpc ∧
    decode 0x0000000F = .error .reservedOpc ∧ decode 0x00000011 = .error .reservedBits ∧
    decode 0x00010001 = .error .strayArg ∧ decode 0x00010005 = .error .strayArg ∧
    decode 0x00010006 = .error .strayArg ∧ decode 0x01010014 = .error .reservedBits

/-- Decode and encode agree both ways, over words and over bytes: every command with every argument comes back from its
word, and every word that decodes is the word of what it decodes to (30_encoding.md sections 1 and 2). -/
def Obligations.DecodeEncodeInverse : Prop :=
  (∀ i, decode (encode i) = .ok i) ∧
    (∀ w i, decode w = .ok i → encode i = w) ∧
    ∀ i rest, decodeBytes (bytesOfWord (encode i) ++ rest) = .ok (i, rest)

/-! ### Acceptance of a command word -/

/-- 60_exceptions.md R304: on an idle block a word with a reserved `OPC`, a nonzero `RSV`, or a nonzero `ARG` for CHECK,
GJ_INVERT or TANH records `ILLEGAL_CMD`; no command starts and nothing else changes. The fields are written as numbers. -/
def Obligations.IllegalWordRefused : Prop :=
  ∀ (s : State) (v : Word) (prompt : Bool), s.busy = false →
    (v.toNat % 16 = 0 ∨ 7 ≤ v.toNat % 16 ∨ v.toNat / 16 % 4096 ≠ 0 ∨
      ((v.toNat % 16 = 1 ∨ v.toNat % 16 = 5 ∨ v.toNat % 16 = 6) ∧ v.toNat / 65536 ≠ 0)) →
    hostWrite 0x0010 0xF v prompt s = .next { s with err := some (s.err.getD .illegalCmd) }

/-- 60_exceptions.md R305: on an idle block a CRC14 word with `ARG` > 256 records `BAD_ARG` and starts nothing; the
iteration budget of the decodes has no illegal value. -/
def Obligations.LongCrcRefused : Prop :=
  (∀ (s : State) (v : Word) (prompt : Bool), s.busy = false →
    v.toNat % 16 = 4 → v.toNat / 16 % 4096 = 0 → 256 < v.toNat / 65536 →
    hostWrite 0x0010 0xF v prompt s = .next { s with err := some (s.err.getD .badArg) }) ∧
  ∀ (dom : Domain) (iters : BitVec 16) (s : State), s.busy = false →
    (∀ l ∈ llrLocs, s.written l = true) → Ready (decodeInstr dom iters) s

/-- 60_exceptions.md R303: while a command runs, a write to `CMD` or to a buffer word records `BUSY_ACCESS` and changes
nothing, the running command included. -/
def Obligations.BusyWriteRefused : Prop :=
  ∀ (s : State) (v : Word) (prompt : Bool), s.busy = true →
    ∀ l, l = .cmd ∨ l ∈ bufferLocs →
      hostWrite l.bus 0xF v prompt s = .next { s with err := some (s.err.getD .busyAccess) }

/-- 60_exceptions.md section 1, the order of causes: a malformed access comes before a busy block, a busy block before an
illegal word, an illegal word before a bad argument. -/
def Obligations.ErrorPriority : Prop :=
  ∀ (s : State) (v : Word) (prompt : Bool),
    hostWrite 0x0012 0xF v prompt s = .next { s with err := some (s.err.getD .badAccess) } ∧
    (s.busy = true → hostWrite 0x0010 0xF 0x00000007 prompt s =
      .next { s with err := some (s.err.getD .busyAccess) }) ∧
    (s.busy = false → hostWrite 0x0010 0xF 0x01010014 prompt s =
      .next { s with err := some (s.err.getD .illegalCmd) })

/-- A step runs the decoded command: where the next turn writes a command word to `CMD` of an idle block, the step is `exec`
of the command (or its beginning, where the turn leaves it running) with that turn consumed; and the state that
`withFetchWord` makes does so at once (30_encoding.md section 3, log 1). -/
def Obligations.StepRunsDecodedCommand : Prop :=
  (∀ (s : State) (v : Word) (i : Instr) (prompt : Bool) (rest : List Turn),
    s.turns = .host (.write 0x0010 0xF v) prompt :: rest → s.rst = false → s.busy = false → decode v = .ok i →
    step s = if prompt then exec i { s with turns := rest } else beginCommand i { s with turns := rest }) ∧
  ∀ (s : State) (nbits w : Nat) (i : Instr), decodeTableWord nbits w = some i →
    step (s.withFetchWord nbits w) = exec i { s with engine := none, rst := false }

/-- Every ready command completes: `exec` answers a next state in which the block is idle, `DONE` is 1, `CMD` holds the
command's word and no error was recorded (30_encoding.md section 3, 60_exceptions.md section 1, 10_state.md section 2). -/
def Obligations.ReadyCommandCompletes : Prop :=
  ∀ (i : Instr) (s : State), Ready i s →
    ∃ t, exec i s = .next t ∧ t.busy = false ∧ t.done = true ∧ t.cmd = encode i ∧ t.err = s.err ∧
      t.irq = s.ie ∧ t.rom = s.rom ∧ t.turns = s.turns ∧ t.reads = s.reads

/-- Where a command does not run: on a busy block, with a CRC14 length above 256, or with an unwritten input word
(30_encoding.md section 3, 10_state.md section 4). -/
def Obligations.CommandTurnedAway : Prop :=
  ∀ (i : Instr) (s : State),
    (s.busy = true → exec i s = .next { s with err := some (s.err.getD .busyAccess) }) ∧
    (s.busy = false → i.wellFormed = false → exec i s = .next { s with err := some (s.err.getD .badArg) }) ∧
    (s.busy = false → i.wellFormed = true → (∃ l ∈ inputLocs i, s.written l = false) →
      ∃ l ∈ inputLocs i, s.written l = false ∧ exec i s = .fault (.unwrittenInput l.offset))

/-- A ready command that is left running: `BUSY` becomes 1, `DONE` 0, `CMD` its word; every other register and every buffer
is as before (30_encoding.md section 3). -/
def Obligations.AcceptanceSetsBusy : Prop :=
  ∀ (i : Instr) (s : State), Ready i s →
    ∃ r, r.cmd = i ∧ r.phase = .init ∧
      beginCommand i s = .next { s with cmd := encode i, done := false, engine := some r }

/-! ### CHECK and the parity tables -/

/-- 40_parity_check.md R167: the score is the number of checks in which an even number of bits is 1, at most 83; the checks
are read slot by slot from `Nm`, a 0 entry skipped. -/
def Obligations.ScoreCountsEvenChecks : Prop :=
  ∀ (t : Tables) (c : Bits174),
    scoreOf t c = ((List.range 83).filter fun j =>
      ((List.range 7).filter fun k =>
        decide (0 < (t.nm.getD j []).getD k 0) && c.getLsbD ((t.nm.getD j []).getD k 0 - 1)).length % 2 == 0).length ∧
    scoreOf t c ≤ 83

/-- 40_parity_check.md R163: 522 edges; 24 checks of weight 7 and 59 of weight 6. -/
def Obligations.TannerGraphCounts : Prop :=
  ∀ t : Tables, ((List.range 83).map fun j => (row t j).length).sum = 522 ∧
    ((List.range 83).filter fun j => (row t j).length == 7).length = 24 ∧
    ((List.range 83).filter fun j => (row t j).length == 6).length = 59

/-- CHECK writes the score of the word in `HARD` and changes nothing else but `CMD` and `DONE`; bit `i` of that word is bit
`i mod 32` of `HARD[i div 32]` (40_parity_check.md section 3). -/
def Obligations.CheckWritesScore : Prop :=
  ∀ (s : State) (h : Nat → Word), s.busy = false → (∀ w < 6, s.readLoc (.hard w) = some (h w)) →
    ∃ c : Bits174, (∀ i < 174, c.getLsbD i = (h (i / 32)).getLsbD (i % 32)) ∧
      exec .check s = .next
        { s with cmd := 0x00000001, done := true, score := BitVec.ofNat 7 (scoreOf s.rom c) }

/-- The corner cases of CHECK for every table: the zero word scores 83, a single 1 scores 80, all ones score 59
(40_parity_check.md section 3). -/
def Obligations.CheckCornerCases : Prop :=
  ∀ t : Tables, scoreOf t 0 = 83 ∧ (∀ b < 174, scoreOf t (BitVec.twoPow 174 b) = 80) ∧
    scoreOf t (BitVec.allOnes 174) = 59

/-- 40_parity_check.md R171: CHECK after a decode that reported score 83 reports 83. -/
def Obligations.CheckAfterDecode : Prop :=
  ∀ (dom : Domain) (iters : BitVec 16) (s t : State), Ready (decodeInstr dom iters) s →
    exec (decodeInstr dom iters) s = .next t → t.score = 83 →
    ∃ u, exec .check t = .next u ∧ u.score = 83 ∧ u.hardWord = t.hardWord

/-- 40_parity_check.md R165: the tables are there from reset on, no step changes them, and a host reads their entries in
`NM_ROM` and `MN_ROM`. -/
def Obligations.TablesConstant : Prop :=
  State.reset.rom = Config.tables ∧ (∀ s t : State, step s = .next t → t.rom = s.rom) ∧
    (∀ (s : State) (j k : Nat), j < 83 → k < 7 →
      hostRead (Loc.nmRom j k).bus 0xF s =
        .next { s with reads := BitVec.ofNat 32 ((s.rom.nm.getD j []).getD k 0) :: s.reads }) ∧
    ∀ (s : State) (i k : Nat), i < 174 → k < 3 →
      hostRead (Loc.mnRom i k).bus 0xF s =
        .next { s with reads := BitVec.ofNat 32 ((s.rom.mn.getD i []).getD k 0) :: s.reads }

/-! ### The decodes -/

/-- 41_scheduler.md R186: a decode completes in exactly one of two ways. Where iteration `k` of the budget is the first whose
hard decision scores 83, it writes that decision, 83 and `k`. Where none does, it writes the best of the seed and the hard
decisions, a later one only where its score is strictly greater, with its score and the budget. In both cases `SCORE` is
the score of `HARD`, and no error is recorded. -/
def Obligations.DecodeOutcome : Prop :=
  ∀ (dom : Domain) (iters : BitVec 16) (s : State), Ready (decodeInstr dom iters) s →
    ∃ t, exec (decodeInstr dom iters) s = .next t ∧ t.done = true ∧ t.busy = false ∧ t.err = s.err ∧
      t.score = BitVec.ofNat 7 (scoreOf s.rom t.hardWord) ∧
      (∀ k, 1 ≤ k → k ≤ iters.toNat → scoreOf s.rom (hardDecisionAt dom s.rom s.llrs k) = 83 →
        (∀ k', 1 ≤ k' → k' < k → scoreOf s.rom (hardDecisionAt dom s.rom s.llrs k') ≠ 83) →
        t.hardWord = hardDecisionAt dom s.rom s.llrs k ∧ t.score = 83 ∧ t.itersRun.toNat = k) ∧
      ((∀ k, 1 ≤ k → k ≤ iters.toNat → scoreOf s.rom (hardDecisionAt dom s.rom s.llrs k) ≠ 83) →
        t.itersRun = iters ∧
        t.hardWord = (List.range iters.toNat).foldl
          (fun best k =>
            if scoreOf s.rom best < scoreOf s.rom (hardDecisionAt dom s.rom s.llrs (k + 1)) then
              hardDecisionAt dom s.rom s.llrs (k + 1)
            else best)
          (signDecode s.llrs))

/-- A budget of 0 runs no iteration, in both domains: `HARD` is the sign decode of `LLR` (bit `i` is 1 where `LLR[i] ≤ 0`),
`SCORE` its score, `ITERS_RUN` 0 (41_scheduler.md sections 1 and 3). -/
def Obligations.ZeroBudgetDecode : Prop :=
  ∀ (dom : Domain) (s : State), Ready (decodeInstr dom 0) s →
    ∃ t, exec (decodeInstr dom 0) s = .next t ∧ (∀ i < 174, t.hardWord.getLsbD i = (s.llr i).le F64.zero) ∧
      t.score = BitVec.ofNat 7 (scoreOf s.rom t.hardWord) ∧ t.itersRun = 0

/-- 41_scheduler.md R188: from the seed on no phase of a decode lowers `BEST_SCORE`, and at completion `SCORE` is at least
the score of the sign decode. -/
def Obligations.ScoreAtLeastSeed : Prop :=
  (∀ (t : Tables) (ph : Phase) (d : Decoder), ph ≠ .init → d.bestScore ≤ (Decoder.move t ph d).2.bestScore) ∧
    ∀ (dom : Domain) (iters : BitVec 16) (s : State), Ready (decodeInstr dom iters) s →
      ∃ t, exec (decodeInstr dom iters) s = .next t ∧
        scoreOf s.rom (signDecode s.llrs) ≤ t.score.toNat

/-- 41_scheduler.md R190: the outputs of a decode are a function of the LLR words, the budget and the tables: two states that
agree on these get the same `HARD`, `SCORE` and `ITERS_RUN`, whatever else they hold. -/
def Obligations.DecodeDeterministic : Prop :=
  ∀ (dom : Domain) (iters : BitVec 16) (s s' : State),
    Ready (decodeInstr dom iters) s → Ready (decodeInstr dom iters) s' → s.rom = s'.rom →
    (∀ l ∈ llrLocs, s.readLoc l = s'.readLoc l) →
    ∃ t t', exec (decodeInstr dom iters) s = .next t ∧ exec (decodeInstr dom iters) s' = .next t' ∧
      (∀ w < 6, t.readLoc (.hard w) = t'.readLoc (.hard w)) ∧ t.score = t'.score ∧ t.itersRun = t'.itersRun

/-- What a decode leaves alone: every register but `HARD`, `SCORE`, `ITERS_RUN`, `CMD` and the flags, and every byte of the
buffers outside `HARD` (10_state.md section 6; 41_scheduler.md section 1). -/
def Obligations.DecodeFrame : Prop :=
  ∀ (dom : Domain) (iters : BitVec 16) (s : State), Ready (decodeInstr dom iters) s →
    ∃ t, exec (decodeInstr dom iters) s = .next t ∧ t.ie = s.ie ∧ t.err = s.err ∧ t.gjOk = s.gjOk ∧
      t.crcOut = s.crcOut ∧ t.tanhY = s.tanhY ∧ t.rom = s.rom ∧ t.rst = s.rst ∧ t.turns = s.turns ∧
      t.reads = s.reads ∧ t.draws = s.draws ∧
      ∀ a, (∀ w < 6, ¬ (Loc.hard w).covers a) → t.readByte a = s.readByte a

/-- All LLRs +10.0 in the LLR domain, for every table and every positive budget: the zero word, score 83, one iteration
(95_test_vectors.md 1.2 S1-S1, 2.6 DL2; 43_decode_llr.md section 2). -/
def Obligations.AllTensDecodeToZero : Prop :=
  ∀ (iters : BitVec 16) (s : State), Ready (.decodeLlr iters) s → iters ≠ 0 →
    (∀ i < 174, s.llr i = ⟨0x4024000000000000#64⟩) →
    ∃ t, exec (.decodeLlr iters) s = .next t ∧ t.hardWord = 0 ∧ t.score = 83 ∧ t.itersRun = 1

/-- 42_decode_prob.md R205: where `q0` is +0.0 or -0.0, whatever `q1` is, `VN_PROB` is exactly 1.0 and `HD_PROB` decides
0. -/
def Obligations.ZeroGuard : Prop :=
  ∀ (t : Tables) (p : List F64) (e : List (List F64)) (i : Nat),
    (∀ j1, ((probProducts t (p.getD i F64.zero) e i ((col t i).filter (· ≠ j1))).1 = ⟨0x0000000000000000#64⟩ ∨
        (probProducts t (p.getD i F64.zero) e i ((col t i).filter (· ≠ j1))).1 = ⟨0x8000000000000000#64⟩) →
      vnProb t p e i j1 = ⟨0x3FF0000000000000#64⟩) ∧
    ((probProducts t (p.getD i F64.zero) e i (col t i)).1 = ⟨0x0000000000000000#64⟩ ∨
        (probProducts t (p.getD i F64.zero) e i (col t i)).1 = ⟨0x8000000000000000#64⟩ →
      guardedRatio (probProducts t (p.getD i F64.zero) e i (col t i)) = ⟨0x3FF0000000000000#64⟩ ∧
        hdProb t p e i = false)

/-- The clamp of the LLR check update: `a ≥ 0.999` gives 7.6 and `a ≤ -0.999` gives -7.6 whatever the logarithm is, and a
NaN gives a NaN (43_decode_llr.md section 2). -/
def Obligations.ClampBeforeLog : Prop :=
  ∀ a : F64,
    (F64.le ⟨0x3FEFF7CED916872B#64⟩ a = true → clampedLog a = ⟨0x401E666666666666#64⟩) ∧
    (F64.le a ⟨0xBFEFF7CED916872B#64⟩ = true → clampedLog a = ⟨0xC01E666666666666#64⟩) ∧
    (a.isNaN = true → (clampedLog a).isNaN = true)

/-! ### TANH -/

/-- TANH of the value in the two words of `TANH_X`: a result that is no NaN is written to `TANH_Y`; for one that is, some NaN
encoding is written, and a free value is counted as drawn; nothing else changes but `CMD` and `DONE` (44_tanh.md
section 2). -/
def Obligations.TanhWritesResult : Prop :=
  ∀ (s : State) (hi lo : Word), s.busy = false → s.readLoc (.tanhX true) = some hi →
    s.readLoc (.tanhX false) = some lo →
    ((tanhApprox ⟨hi ++ lo⟩).isNaN = false →
      exec .tanh s = .next { s with cmd := 0x00000006, done := true, tanhY := tanhApprox ⟨hi ++ lo⟩ }) ∧
    ((tanhApprox ⟨hi ++ lo⟩).isNaN = true →
      ∃ y : F64, y.isNaN = true ∧
        exec .tanh s = .next { s with cmd := 0x00000006, done := true, tanhY := y, draws := s.draws + 1 })

/-- The special inputs of the approximator: the infinities saturate, a NaN gives a NaN, the zeros keep their sign
(44_tanh.md section 1). -/
def Obligations.TanhSpecialInputs : Prop :=
  tanhApprox ⟨0x7FF0000000000000#64⟩ = ⟨0x3FEFF7CED916872B#64⟩ ∧
    tanhApprox ⟨0xFFF0000000000000#64⟩ = ⟨0xBFEFF7CED916872B#64⟩ ∧
    tanhApprox ⟨0x0000000000000000#64⟩ = ⟨0x0000000000000000#64⟩ ∧
    tanhApprox ⟨0x8000000000000000#64⟩ = ⟨0x8000000000000000#64⟩ ∧
    ∀ x : F64, x.isNaN = true → (tanhApprox x).isNaN = true

/-- 44_tanh.md R242: the approximator is odd, bit for bit, for every binary64 that is no NaN. -/
def Obligations.TanhOdd : Prop :=
  ∀ x : F64, x.isNaN = false → tanhApprox x.neg = (tanhApprox x).neg

/-- The evaluated values of the approximator (44_tanh.md section 1, its table). -/
def Obligations.TanhTableValues : Prop :=
  tanhApprox ⟨0x3FE0000000000000#64⟩ = ⟨0x3FDD9353D7568AF5#64⟩ ∧
    tanhApprox ⟨0x3FF0000000000000#64⟩ = ⟨0x3FE85EFAB5152D4D#64⟩ ∧
    tanhApprox ⟨0x4000000000000000#64⟩ = ⟨0x3FEED950640B7145#64⟩ ∧
    tanhApprox ⟨0x4008000000000000#64⟩ = ⟨0x3FEFD77F09562D5A#64⟩ ∧
    tanhApprox ⟨0x4010000000000000#64⟩ = ⟨0x3FEFFAA0CC041BF3#64⟩ ∧
    tanhApprox ⟨0x4014000000000000#64⟩ = ⟨0x3FF0000A3A7A1997#64⟩ ∧
    tanhApprox ⟨0xC014000000000000#64⟩ = ⟨0xBFF0000A3A7A1997#64⟩ ∧
    tanhApprox ⟨0x4018000000000000#64⟩ = ⟨0x3FF0019BC7819E2C#64⟩ ∧
    tanhApprox ⟨0x401E666666666666#64⟩ = ⟨0x3FF008164383B448#64⟩ ∧
    tanhApprox ⟨0xC01E666666666666#64⟩ = ⟨0xBFF008164383B448#64⟩ ∧
    tanhApprox ⟨0x401E666666666667#64⟩ = ⟨0x3FEFF7CED916872B#64⟩

/-! ### CRC14 -/

/-- CRC14 writes the CRC of the first `n` message bits, `out[k]` at bit `13 - k`, and changes nothing else but `CMD` and
`DONE`; message bit `k` is bit `k mod 32` of `CRC_MSG[k div 32]` (45_crc14.md section 3). -/
def Obligations.CrcWritesResult : Prop :=
  ∀ (s : State) (n : BitVec 16) (m : Nat → Word), s.busy = false → n.toNat ≤ 256 →
    (∀ w < (n.toNat + 31) / 32, s.readLoc (.crcMsg w) = some (m w)) →
    ∃ c : BitVec 14,
      (∀ k < 14, c.getLsbD (13 - k) =
        (crcFn ((List.range n.toNat).map fun k => (m (k / 32)).getLsbD (k % 32))).getD k false) ∧
      exec (.crc14 n) s = .next { s with cmd := encode (.crc14 n), done := true, crcOut := c }

/-- 45_crc14.md R258: the CRC of zeros is zero; the CRC is linear; the sweep over a message followed by its CRC leaves zeros;
leading zeros do not change it. -/
def Obligations.CrcAlgebra : Prop :=
  (∀ n, crcFn (List.replicate n false) = List.replicate 14 false) ∧
    (∀ a b : List Bool, a.length = b.length →
      crcFn (List.zipWith xor a b) = List.zipWith xor (crcFn a) (crcFn b)) ∧
    (∀ msg : List Bool, (crcSweep msg.length (msg ++ crcFn msg)).drop msg.length = List.replicate 14 false) ∧
    ∀ (z : Nat) (msg : List Bool), crcFn (List.replicate z false ++ msg) = crcFn msg

/-- 45_crc14.md R257: with the first bit of a sequence as its highest coefficient over GF(2), the CRC is the remainder of
`msg(x) x^14` by the generator: their difference is a multiple of the generator, and the CRC has 14 coefficients. -/
def Obligations.CrcIsRemainder : Prop :=
  ∀ msg : List Bool, (crcFn msg).length = 14 ∧
    ∃ q : Polynomial (ZMod 2),
      bitPolynomial msg * Polynomial.X ^ 14 = q * bitPolynomial crcGen + bitPolynomial (crcFn msg)

/-! ### GJ_INVERT -/

/-- GJ_INVERT runs the sweep of 46_gauss_jordan.md section 2 over the 91 pivot rows. Where every pivot is found, `GJ_OK` is 1
and `GJ_M` and `WHICH` hold the swept matrix and its labels; where one is not, `GJ_OK` is 0. Neither is an error. -/
def Obligations.GjRunsSweep : Prop :=
  ∀ s : State, Ready .gjInvert s →
    ∃ t, exec .gjInvert s = .next t ∧ t.done = true ∧ t.busy = false ∧ t.err = s.err ∧
      match (List.range 91).foldlM Gj.step ⟨s.gjRows, s.labels⟩ with
      | some g => t.gjOk = true ∧ t.gjRows = g.rows ∧ t.labels = g.labels ∧ t.draws = s.draws
      | none => t.gjOk = false

/-- 46_gauss_jordan.md R277: on success, with a zero right part and distinct labels at acceptance, the left part of rows 0 to
90 is the identity, that of rows 91 to 173 is zero, the right part of rows 0 to 90 inverts the matrix of the rows the labels
name, and the right part of the others gives them as sums of the pivot rows. `a0 k` is the left part, at acceptance, of the
row that held the label row `k` holds afterwards. -/
def Obligations.GjInverts : Prop :=
  ∀ s t : State, Ready .gjInvert s → exec .gjInvert s = .next t → t.gjOk = true →
    (∀ k < 174, ∀ q < 91, (s.gjRow k).getLsbD (91 + q) = false) → s.labels.Nodup →
    let a0 := fun k c => (s.gjRow (s.labels.idxOf (t.labels.getD k 0))).getLsbD c
    let sum := fun r c => (List.range 91).foldl (fun b q => b ^^ ((t.gjRow r).getLsbD (91 + q) && a0 q c)) false
    (∀ r < 91, ∀ c < 91, (t.gjRow r).getLsbD c = decide (c = r)) ∧
      (∀ k, 91 ≤ k → k < 174 → ∀ c < 91, (t.gjRow k).getLsbD c = false) ∧
      (∀ r < 91, ∀ c < 91, sum r c = decide (c = r)) ∧
      ∀ k, 91 ≤ k → k < 174 → ∀ c < 91, a0 k c = sum k c

/-- A success permutes the labels (46_gauss_jordan.md section 1). -/
def Obligations.GjPermutesLabels : Prop :=
  ∀ s t : State, Ready .gjInvert s → exec .gjInvert s = .next t → t.gjOk = true → t.labels.Perm s.labels

/-- A matrix one of whose first 91 columns is zero in all 174 rows is reported singular (46_gauss_jordan.md section 2). -/
def Obligations.GjZeroColumnFails : Prop :=
  ∀ (s : State) (c : Nat), Ready .gjInvert s → c < 91 → (∀ k < 174, (s.gjRow k).getLsbD c = false) →
    ∃ t, exec .gjInvert s = .next t ∧ t.gjOk = false ∧ t.done = true ∧ t.err = s.err

/-- What GJ_INVERT leaves alone: every register but `GJ_OK`, `CMD` and the flags, and every byte of the buffers outside
`GJ_M` and `WHICH` (10_state.md section 6). -/
def Obligations.GjFrame : Prop :=
  ∀ s : State, Ready .gjInvert s →
    ∃ t, exec .gjInvert s = .next t ∧ t.ie = s.ie ∧ t.err = s.err ∧ t.score = s.score ∧
      t.itersRun = s.itersRun ∧ t.crcOut = s.crcOut ∧ t.tanhY = s.tanhY ∧ t.rom = s.rom ∧ t.rst = s.rst ∧
      t.turns = s.turns ∧ t.reads = s.reads ∧
      ∀ a, (∀ r < 174, ∀ w < 6, ¬ (Loc.gjM r w).covers a) → (∀ k < 174, ¬ (Loc.which k).covers a) →
        t.readByte a = s.readByte a

/-! ### The ENGINE -/

/-- Running the phases one move at a time gives what the command gives at once: for every ready command, finitely many moves
of the ENGINE from its acceptance end in the state `exec` answers (41_scheduler.md section 2, 70_reset_and_hazards.md
section 4). The size of a move, and that outputs are written by the last one, is the model's choice (log 10). -/
def Obligations.EngineMovesReachExec : Prop :=
  ∀ (i : Instr) (s : State), Ready i s →
    ∃ s' t n, beginCommand i s = .next s' ∧ s'.busy = true ∧ exec i s = .next t ∧ State.engineMoves n s' = t

/-- Every running command completes once the HOST has no more turns, whatever phase and work it is in
(70_reset_and_hazards.md section 4). The list of turns (log 1), that the ENGINE moves when it is empty (log 2) and the size
of a move (log 10) are the model's choices. -/
def Obligations.RunningCommandCompletes : Prop :=
  ∀ s : State, s.busy = true → s.turns = [] →
    ∃ n t, Sys2Proof.core.run n s = .next t ∧ t.busy = false ∧ t.done = true

/-- Until it completes a command changes hidden state only: a move after which it still runs leaves every register and every
buffer as they were. That outputs are written at completion only is the model's choice (log 10); the spec leaves the output
words unspecified to a reader until then (20_memory.md section 3, over the hidden state of 10_state.md section 6). -/
def Obligations.WorkIsHidden : Prop :=
  ∀ s : State, s.engineMove.busy = true → s.engineMove = { s with engine := s.engineMove.engine }

/-! ### Host accesses -/

/-- The window is as 10_state.md section 1 lays it out: each mapped location stands at its offset, and an offset names a
location only if it is that location's. -/
def Obligations.WindowMap : Prop :=
  (∀ l ∈ windowLocs, locate l.offset = some l ∧ l.offset + 4 ≤ 0x8000) ∧
    ∀ off l, locate off = some l → l ∈ windowLocs ∧ l.offset = off

/-- 60_exceptions.md R302: an access that is malformed or unmapped records `BAD_ACCESS`, a read returning 0 and a write
changing nothing; so does a write to a read-only word; a write to `STATUS` does not. -/
def Obligations.BadAccessRefused : Prop :=
  (∀ (s : State) (off : Offset) (lanes : BitVec 4),
    (lanes ≠ 0xF ∨ off.toNat % 4 ≠ 0 ∨ ∀ l ∈ windowLocs, l.offset ≠ off.toNat) →
    hostRead off lanes s = .next { s with err := some (s.err.getD .badAccess), reads := 0 :: s.reads } ∧
    ∀ v prompt, hostWrite off lanes v prompt s = .next { s with err := some (s.err.getD .badAccess) }) ∧
  (∀ (s : State) (v : Word) (prompt : Bool), ∀ l ∈ registerLocs, l ≠ .ctrl → l ≠ .status → l ≠ .cmd →
    hostWrite l.bus 0xF v prompt s = .next { s with err := some (s.err.getD .badAccess) }) ∧
  ∀ (s : State) (v : Word) (prompt : Bool), ∃ t, hostWrite 0x000C 0xF v prompt s = .next t ∧
    (t.err = none ∨ t.err = s.err)

/-- 20_memory.md R111: while a command runs, a read of a word it writes answers a free value and records no error; every other
read of a word that holds a value answers that value. Neither changes anything else. -/
def Obligations.BusyReads : Prop :=
  ∀ (s : State) (r : Running), s.engine = some r → ∀ l ∈ windowLocs,
    (l ∈ outputLocs r.cmd → hostRead l.bus 0xF s =
      .next { s with reads := Config.freeWord s.draws :: s.reads, draws := s.draws + 1 }) ∧
    (l ∉ outputLocs r.cmd → ∀ v, s.readLoc l = some v →
      hostRead l.bus 0xF s = .next { s with reads := v :: s.reads })

/-- A read of an idle block answers what the location holds and changes nothing else (20_memory.md section 1). -/
def Obligations.IdleReads : Prop :=
  ∀ (s : State) (l : Loc) (v : Word), s.busy = false → l ∈ windowLocs → s.readLoc l = some v →
    hostRead l.bus 0xF s = .next { s with reads := v :: s.reads }

/-- A read of a buffer word nobody wrote is a model fault, unless the running command writes the word (10_state.md
section 4). -/
def Obligations.UnwrittenReadFaults : Prop :=
  ∀ (s : State) (l : Loc), l ∈ bufferLocs → s.written l = false → l ∉ s.runningOutputs →
    hostRead l.bus 0xF s = .fault (.unwrittenRead l.offset)

/-- A word written to a buffer of an idle block reads back, its reserved bits 0, and every other location reads as before
(10_state.md sections 1 and 4). -/
def Obligations.BufferWriteReadsBack : Prop :=
  ∀ (s : State) (l : Loc) (v : Word) (prompt : Bool), s.busy = false → l ∈ bufferLocs →
    ∃ t, hostWrite l.bus 0xF v prompt s = .next t ∧ t.readLoc l = some (v &&& l.mask) ∧
      ∀ l' ∈ windowLocs, l' ≠ l → t.readLoc l' = s.readLoc l'

/-- 60_exceptions.md R301: the first error is kept, recording one changes nothing else, `irq` follows, and an access that
records one has no other effect than the 0 a read answers. -/
def Obligations.FirstErrorKept : Prop :=
  (∀ (s : State) (c : ErrCode),
    (s.errFlag = false → s.raise c = { s with err := some c }) ∧ (s.errFlag = true → s.raise c = s) ∧
    (s.raise c).irq = s.ie) ∧
  ∀ (a : Access) (prompt : Bool) (s t : State), hostAccess a prompt s = .next t → t.err ≠ none → t.err ≠ s.err →
    t = { s with err := t.err, reads := t.reads }

/-- What a host reads in `STATUS`: `BUSY` bit 0, `DONE` bit 1, `ERR` bit 2, the code of the first error in bits 7:4 (0 when
`ERR` is 0), every other bit 0 (10_state.md section 2). -/
def Obligations.StatusFields : Prop :=
  ∀ s : State, s.statusWord.getLsbD 0 = s.busy ∧ s.statusWord.getLsbD 1 = s.done ∧
    s.statusWord.getLsbD 2 = s.err.isSome ∧ s.statusWord.getLsbD 3 = false ∧
    s.statusWord.extractLsb' 4 4 = (match s.err with
      | none => 0
      | some .illegalCmd => 1
      | some .badArg => 2
      | some .busyAccess => 3
      | some .badAccess => 4) ∧
    s.statusWord.extractLsb' 8 24 = 0

/-- A write to `STATUS`, busy or not, clears `DONE` and `ERR` (with its code) exactly where it writes a one, and changes
nothing else (10_state.md section 2). -/
def Obligations.StatusWriteClears : Prop :=
  ∀ (s : State) (v : Word) (prompt : Bool),
    hostWrite 0x000C 0xF v prompt s = .next { s with
      done := if v.getLsbD 1 then false else s.done
      err := if v.getLsbD 2 then none else s.err }

/-- A write to `CTRL` without `SRST`, busy or not, sets `IE` and changes nothing else (10_state.md section 2). -/
def Obligations.ControlWriteSetsIe : Prop :=
  ∀ (s : State) (v : Word) (prompt : Bool), v.getLsbD 1 = false →
    hostWrite 0x0008 0xF v prompt s = .next { s with ie := v.getLsbD 0 }

/-! ### Reset and interrupt -/

/-- 70_reset_and_hazards.md R342: a write to `CTRL` with `SRST` = 1, busy or not, clears `CTRL`, `STATUS` and `CMD` and leaves
the block idle; every other location keeps what it holds, but for the words a running command writes, each of which then
holds some value; an idle block changes in nothing else. -/
def Obligations.SoftReset : Prop :=
  ∀ (s : State) (v : Word) (prompt : Bool), v.getLsbD 1 = true →
    ∃ t, hostWrite 0x0008 0xF v prompt s = .next t ∧
      t.ie = false ∧ t.statusWord = 0 ∧ t.cmd = 0 ∧ t.engine = none ∧ t.irq = false ∧
      (s.engine = none → t = { s with ie := false, done := false, err := none, cmd := 0 }) ∧
      ∀ r, s.engine = some r →
        (∀ l ∈ windowLocs, l ∉ outputLocs r.cmd → l ≠ .ctrl → l ≠ .status → l ≠ .cmd → t.readLoc l = s.readLoc l) ∧
        ∀ l ∈ outputLocs r.cmd, (t.readLoc l).isSome = true

/-- 70_reset_and_hazards.md R340: the values after hardware reset, in the state a run starts from and whenever `rst` is
asserted (the turn of log 11), a command running or not; the tables are kept. -/
def Obligations.HardwareReset : Prop :=
  State.reset.ResetValues ∧ State.reset.rom = Config.tables ∧
    ∀ (s : State) (rest : List Turn), s.turns = .assertRst :: rest →
      ∃ t, step s = .next t ∧ t.ResetValues ∧ t.rom = s.rom

/-- While `rst` is asserted the model takes no access (70_reset_and_hazards.md section 1). -/
def Obligations.NoAccessDuringReset : Prop :=
  ∀ (s : State) (a : Access) (prompt : Bool) (rest : List Turn), s.rst = true →
    s.turns = .host a prompt :: rest → step s = .refused .accessDuringReset

/-- 60_exceptions.md R321: `irq` is 0 after hardware reset and after soft reset. -/
def Obligations.NoInterruptAfterReset : Prop :=
  State.reset.irq = false ∧ ∀ s : State, s.hardReset.irq = false ∧ s.softReset.irq = false

/-! ### Invariants -/

/-- Every step keeps the buffers well formed: one form of the memory, only buffer bytes, whole words, reserved bits 0
(10_state.md sections 1 and 4, 20_memory.md section 1). -/
def Obligations.StepKeepsBufferInv : Prop :=
  ∀ s t : State, s.BufferInv → step s = .next t → t.BufferInv

/-- The buffers are well formed after reset. -/
def Obligations.ResetBufferInv : Prop := State.reset.BufferInv

/-- Every step keeps the ENGINE's invariant: while a command runs, `CMD` holds its word, `DONE` is 0, its inputs are written
and its hidden state is of its own kind, with `BEST_SCORE` the score of `BEST` and `NIT` within the budget (10_state.md
section 6, 20_memory.md section 3, 41_scheduler.md section 3). -/
def Obligations.StepKeepsEngineInv : Prop :=
  ∀ s t : State, s.EngineInv → step s = .next t → t.EngineInv

/-- The ENGINE's invariant holds after reset. -/
def Obligations.ResetEngineInv : Prop := State.reset.EngineInv
end

