-- ==== Sys2Proof/Laws/Bits.lean ====
section
/-!
SUPPORT. Sys2Proof/Laws/Bits.lean: the bits of packed bit vectors (00_scope.md R17).
-/
namespace Sys2Proof.Machine

@[simp] theorem getLsbD_bitsLE (n : Nat) (f : Nat → Bool) (i : Nat) :
    (bitsLE n f).getLsbD i = (decide (i < n) && f i) := by
  induction n with
  | zero => simp [bitsLE]
  | succ n ih =>
    simp only [bitsLE, BitVec.getLsbD_cons, ih]
    split_ifs with h
    · simp [h]
    · simp only [show i < n + 1 ↔ i < n by omega]

/-- Bit `i` of six packed words is bit `i mod 32` of word `i div 32`. -/
theorem getLsbD_sixWords (f : Nat → Word) (i : Nat) (h : i < 192) :
    (sixWords f).getLsbD i = (f (i / 32)).getLsbD (i % 32) := by
  simp only [sixWords, BitVec.getLsbD_append]
  rcases (by omega : i < 32 ∨ (32 ≤ i ∧ i < 64) ∨ (64 ≤ i ∧ i < 96) ∨ (96 ≤ i ∧ i < 128) ∨
    (128 ≤ i ∧ i < 160) ∨ (160 ≤ i ∧ i < 192)) with h | h | h | h | h | h
  · simp [h, show i / 32 = 0 by omega, show i % 32 = i by omega]
  · simp [show ¬ i < 32 by omega, show i - 32 < 32 by omega, show i / 32 = 1 by omega,
      show i % 32 = i - 32 by omega]
  · simp [show ¬ i < 32 by omega, show ¬ i - 32 < 32 by omega, show i - 32 - 32 < 32 by omega,
      show i / 32 = 2 by omega, show i % 32 = i - 32 - 32 by omega]
  · simp [show ¬ i < 32 by omega, show ¬ i - 32 < 32 by omega, show ¬ i - 32 - 32 < 32 by omega,
      show i - 32 - 32 - 32 < 32 by omega, show i / 32 = 3 by omega, show i % 32 = i - 32 - 32 - 32 by omega]
  · simp [show ¬ i < 32 by omega, show ¬ i - 32 < 32 by omega, show ¬ i - 32 - 32 < 32 by omega,
      show ¬ i - 32 - 32 - 32 < 32 by omega, show i - 32 - 32 - 32 - 32 < 32 by omega,
      show i / 32 = 4 by omega, show i % 32 = i - 32 - 32 - 32 - 32 by omega]
  · simp [show ¬ i < 32 by omega, show ¬ i - 32 < 32 by omega, show ¬ i - 32 - 32 < 32 by omega,
      show ¬ i - 32 - 32 - 32 < 32 by omega, show ¬ i - 32 - 32 - 32 - 32 < 32 by omega,
      show i / 32 = 5 by omega, show i % 32 = i - 32 - 32 - 32 - 32 - 32 by omega]

/-- Bit `b` of word `w` of a packed bit vector is its bit `32 w + b`. -/
theorem getLsbD_packedWord {n : Nat} (v : BitVec n) (w b : Nat) (h : b < 32) :
    (packedWord v w).getLsbD b = v.getLsbD (32 * w + b) := by
  simp [packedWord, h]

/-- Bit `i` of the hard codeword is bit `i mod 32` of `HARD[i div 32]` (10_state.md R61). -/
theorem State.getLsbD_hardWord (s : State) (i : Nat) (h : i < 174) :
    s.hardWord.getLsbD i = (s.word (.hard (i / 32))).getLsbD (i % 32) := by
  rw [State.hardWord, BitVec.getLsbD_setWidth, getLsbD_sixWords _ _ (by omega)]
  simp [h]

/-- Bit `c` of a matrix row is bit `c mod 32` of `GJ_M[r][c div 32]` (10_state.md R64). -/
theorem State.getLsbD_gjRow (s : State) (r c : Nat) (h : c < 182) :
    (s.gjRow r).getLsbD c = (s.word (.gjM r (c / 32))).getLsbD (c % 32) := by
  rw [State.gjRow, BitVec.getLsbD_setWidth, getLsbD_sixWords _ _ (by omega)]
  simp [h]

end Sys2Proof.Machine
end

