-- ==== Sys2Proof/Laws/Graph.lean ====
section
/-!
SUPPORT. Sys2Proof/Laws/Graph.lean: what `WF_TABLES` (40_parity_check.md R162) says of `ROW` and `COL`.
-/
namespace Sys2Proof.Machine

/-- The five parts of `WF_TABLES`. -/
theorem wf_parts (t : Tables) :
    t.nm.length = 83 ∧ t.mn.length = 174 ∧ (∀ r ∈ t.nm, Config.nmRowOk r = true) ∧
    (∀ r ∈ t.mn, Config.mnRowOk r = true) ∧
    (∀ p ∈ t.nm.zipIdx, ∀ v ∈ Config.present p.1, (t.mn.getD (v - 1) []).contains (p.2 + 1) = true) ∧
    (∀ p ∈ t.mn.zipIdx, ∀ u ∈ p.1, (t.nm.getD (u - 1) []).contains (p.2 + 1) = true) := by
  have h := t.wf
  simp only [Config.wfTables, Bool.and_eq_true, beq_iff_eq, List.all_eq_true] at h
  obtain ⟨⟨⟨⟨⟨h1, h2⟩, h3⟩, h4⟩, h5⟩, h6⟩ := h
  exact ⟨h1, h2, h3, h4, fun p hp => h5 p hp, fun p hp => h6 p hp⟩

theorem nm_getD_mem (t : Tables) (j : Nat) (h : j < 83) : t.nm.getD j [] ∈ t.nm := by
  have := (wf_parts t).1
  rw [List.getD_eq_getElem _ _ (by omega)]
  exact List.getElem_mem _

theorem mn_getD_mem (t : Tables) (i : Nat) (h : i < 174) : t.mn.getD i [] ∈ t.mn := by
  have := (wf_parts t).2.1
  rw [List.getD_eq_getElem _ _ (by omega)]
  exact List.getElem_mem _

/-- The rows of `Nm`: distinct bits, 6 or 7 of them, each below 174. -/
theorem row_spec (t : Tables) (j : Nat) (h : j < 83) :
    (row t j).Nodup ∧ ((row t j).length = 6 ∨ (row t j).length = 7) ∧ ∀ i ∈ row t j, i < 174 := by
  have hr := (wf_parts t).2.2.1 _ (nm_getD_mem t j h)
  simp only [Config.nmRowOk, Bool.and_eq_true, Bool.or_eq_true, beq_iff_eq, decide_eq_true_eq, List.all_eq_true] at hr
  obtain ⟨⟨⟨h7, hle⟩, hnd⟩, hw⟩ := hr
  have hpos : ∀ v ∈ Config.present (t.nm.getD j []), 1 ≤ v ∧ v ≤ 174 := by
    intro v hv
    have := List.mem_filter.mp hv
    exact ⟨Nat.one_le_iff_ne_zero.mpr (by simpa using this.2), hle v this.1⟩
  refine ⟨?_, by simpa [row] using hw, ?_⟩
  · exact hnd.map_on fun a ha b hb hab => by have := hpos a ha; have := hpos b hb; omega
  · intro i hi
    obtain ⟨v, hv, rfl⟩ := List.mem_map.mp hi
    have := hpos v hv
    omega

/-- The rows of `Mn`: three distinct checks, each below 83. -/
theorem col_spec (t : Tables) (i : Nat) (h : i < 174) :
    (col t i).Nodup ∧ (col t i).length = 3 ∧ ∀ j ∈ col t i, j < 83 := by
  have hr := (wf_parts t).2.2.2.1 _ (mn_getD_mem t i h)
  simp only [Config.mnRowOk, Bool.and_eq_true, beq_iff_eq, decide_eq_true_eq, List.all_eq_true] at hr
  obtain ⟨⟨h3, hle⟩, hnd⟩ := hr
  refine ⟨?_, by simpa [col] using h3, ?_⟩
  · exact hnd.map_on fun a ha b hb hab => by have := hle a ha; have := hle b hb; omega
  · intro j hj
    obtain ⟨u, hu, rfl⟩ := List.mem_map.mp hj
    have := hle u hu
    omega

/-- Bit `i` is in check `j` exactly when `j` is a check of bit `i` (40_parity_check.md R162 item 3, R164). -/
theorem mem_row_iff_mem_col (t : Tables) (i j : Nat) (hi : i < 174) (hj : j < 83) : i ∈ row t j ↔ j ∈ col t i := by
  obtain ⟨h1, h2, h3, h4, h5, h6⟩ := wf_parts t
  constructor
  · intro h
    obtain ⟨v, hv, hvi⟩ := List.mem_map.mp h
    have hmem : (t.nm.getD j [], j) ∈ t.nm.zipIdx := by
      rw [List.mem_zipIdx_iff_getElem?, List.getD_eq_getElem _ _ (by omega)]
      exact List.getElem?_eq_getElem _
    have hc := h5 _ hmem v hv
    have hne : v ≠ 0 := by simpa using (List.mem_filter.mp hv).2
    rw [hvi, List.contains_iff_mem] at hc
    exact List.mem_map.mpr ⟨j + 1, hc, rfl⟩
  · intro h
    obtain ⟨u, hu, huj⟩ := List.mem_map.mp h
    have hmem : (t.mn.getD i [], i) ∈ t.mn.zipIdx := by
      rw [List.mem_zipIdx_iff_getElem?, List.getD_eq_getElem _ _ (by omega)]
      exact List.getElem?_eq_getElem _
    have hc := h6 _ hmem u hu
    rw [huj, List.contains_iff_mem] at hc
    exact List.mem_map.mpr ⟨i + 1, List.mem_filter.mpr ⟨hc, by simp⟩, rfl⟩

/-- The message put on an edge is the one found there. -/
theorem message_onEdges (t : Tables) (f : Nat → Nat → F64) (j i : Nat) (hj : j < 83) (hi : i ∈ row t j) :
    message t (onEdges t f) j i = f j i := by
  have hlt : (row t j).idxOf i < (row t j).length := List.idxOf_lt_length_iff.mpr hi
  simp [message, onEdges, hj, hlt]

/-- A score is at most 83 (40_parity_check.md R167). -/
theorem scoreOf_le (t : Tables) (c : Bits174) : scoreOf t c ≤ 83 :=
  (List.length_filter_le _ _).trans (by simp)

end Sys2Proof.Machine
end

