-- ==== Sys2Proof/Laws/Memory.lean ====
section
/-!
SUPPORT. Sys2Proof/Laws/Memory.lean: the buffer storage: a read after a write, and that every operation keeps the one form
of a memory.
-/
namespace Sys2Proof.Machine

theorem Memory.read_write_same (m : Memory) (a : Nat) (v : Byte) : (m.write a v).read a = some v := by
  induction m with
  | nil => simp [Memory.write, Memory.read]
  | cons c rest ih =>
    obtain ⟨b, u⟩ := c
    unfold Memory.write
    split_ifs with h1 h2
    · simp [Memory.read]
    · simp [Memory.read]
    · simp [Memory.read, ih, Ne.symm h2]

theorem Memory.read_write_other (m : Memory) (a b : Nat) (v : Byte) (h : a ≠ b) :
    (m.write a v).read b = m.read b := by
  induction m with
  | nil => simp [Memory.write, Memory.read, h]
  | cons c rest ih =>
    obtain ⟨d, u⟩ := c
    unfold Memory.write
    split_ifs with h1 h2
    · simp [Memory.read, h]
    · subst h2; simp [Memory.read, h]
    · simp [Memory.read, ih]

theorem Memory.read_write (m : Memory) (a b : Nat) (v : Byte) :
    (m.write a v).read b = if a = b then some v else m.read b := by
  split_ifs with h
  · subst h; exact m.read_write_same a v
  · exact m.read_write_other a b v h

/-- Every offset a write leaves listed was listed before or is the one written. -/
theorem Memory.mem_keys_write (m : Memory) (a : Nat) (v : Byte) (k : Nat) :
    k ∈ (m.write a v).map Prod.fst → k = a ∨ k ∈ m.map Prod.fst := by
  induction m with
  | nil => simp [Memory.write]
  | cons c rest ih =>
    obtain ⟨b, u⟩ := c
    unfold Memory.write
    split_ifs with h1 h2
    · simp
    · subst h2; simp only [List.map_cons, List.mem_cons]; tauto
    · simp only [List.map_cons, List.mem_cons]; tauto

theorem Memory.wf_nil : Memory.wf [] := List.Pairwise.nil

/-- A write keeps the offsets rising. -/
theorem Memory.wf_write (m : Memory) (a : Nat) (v : Byte) (h : m.wf) : (m.write a v).wf := by
  induction m with
  | nil => simp [Memory.write, Memory.wf]
  | cons c rest ih =>
    obtain ⟨b, u⟩ := c
    have hrest : Memory.wf rest := (List.pairwise_cons.mp h).2
    have hb : ∀ k ∈ rest.map Prod.fst, b < k := (List.pairwise_cons.mp h).1
    unfold Memory.write
    split_ifs with h1 h2
    · refine List.pairwise_cons.mpr ⟨fun k hk => ?_, h⟩
      simp only [List.map_cons, List.mem_cons] at hk
      rcases hk with rfl | hk
      · exact h1
      · exact h1.trans (hb k hk)
    · subst h2; exact h
    · refine List.pairwise_cons.mpr ⟨fun k hk => ?_, ih hrest⟩
      rcases Memory.mem_keys_write _ _ _ _ hk with rfl | hk
      · omega
      · exact hb k hk

theorem Memory.wf_writeWord (m : Memory) (off : Nat) (v : Word) (h : m.wf) : (m.writeWord off v).wf :=
  Memory.wf_write _ _ _ (Memory.wf_write _ _ _ (Memory.wf_write _ _ _ (Memory.wf_write _ _ _ h)))

/-- What a byte reads as after a word was stored. -/
theorem Memory.read_writeWord (m : Memory) (off a : Nat) (v : Word) :
    (m.writeWord off v).read a =
      if off ≤ a ∧ a < off + 4 then some (laneOf v (a - off)) else m.read a := by
  simp only [Memory.writeWord, Memory.read_write]
  split_ifs <;> first | rfl | omega | skip
  all_goals
    rename_i h _
    subst h
    simp

theorem wordOfLanes_laneOf (v : Word) :
    wordOfLanes (laneOf v 0) (laneOf v 1) (laneOf v 2) (laneOf v 3) = v := by
  ext i hi
  simp only [wordOfLanes, laneOf, ← BitVec.getLsbD_eq_getElem, BitVec.getLsbD_append, BitVec.getLsbD_extractLsb']
  rcases (by omega : i < 8 ∨ (8 ≤ i ∧ i < 16) ∨ (16 ≤ i ∧ i < 24) ∨ (24 ≤ i ∧ i < 32)) with h | h | h | h
  · simp [h]
  · simp [show ¬ i < 8 by omega, show i - 8 < 8 by omega, show 8 + (i - 8) = i by omega]
  · simp [show ¬ i < 8 by omega, show ¬ i - 8 < 8 by omega, show i - 8 - 8 < 8 by omega,
      show 16 + (i - 8 - 8) = i by omega]
  · simp [show ¬ i < 8 by omega, show ¬ i - 8 < 8 by omega, show ¬ i - 8 - 8 < 8 by omega,
      show i - 8 - 8 - 8 < 8 by omega, show 24 + (i - 8 - 8 - 8) = i by omega]

/-- A stored word reads back. -/
theorem Memory.readWord_writeWord_same (m : Memory) (off : Nat) (v : Word) :
    (m.writeWord off v).readWord off = some v := by
  simp [Memory.readWord, Memory.read_writeWord, wordOfLanes_laneOf]

/-- Two reads of words agree where their four bytes do. -/
theorem Memory.readWord_congr {m m' : Memory} {off : Nat}
    (h : ∀ a, off ≤ a → a < off + 4 → m'.read a = m.read a) : m'.readWord off = m.readWord off := by
  simp only [Memory.readWord]
  rw [h off (by omega) (by omega), h (off + 1) (by omega) (by omega), h (off + 2) (by omega) (by omega),
    h (off + 3) (by omega) (by omega)]

/-- A word that shares no byte with the stored one reads as before. -/
theorem Memory.readWord_writeWord_other (m : Memory) (off off' : Nat) (v : Word)
    (h : off' + 4 ≤ off ∨ off + 4 ≤ off') : (m.writeWord off v).readWord off' = m.readWord off' := by
  refine Memory.readWord_congr fun a ha hb => ?_
  rw [Memory.read_writeWord, if_neg (by omega)]

/-- A word holds a value exactly when its four bytes do. -/
theorem Memory.readWord_isSome (m : Memory) (off : Nat) :
    (m.readWord off).isSome = true ↔ ∀ a, off ≤ a → a < off + 4 → (m.read a).isSome = true := by
  constructor
  · intro h a ha hb
    simp only [Memory.readWord] at h
    rcases (by omega : a = off ∨ a = off + 1 ∨ a = off + 2 ∨ a = off + 3) with rfl | rfl | rfl | rfl <;>
      (split at h <;> simp_all)
  · intro h
    obtain ⟨b0, h0⟩ := Option.isSome_iff_exists.mp (h off (by omega) (by omega))
    obtain ⟨b1, h1⟩ := Option.isSome_iff_exists.mp (h (off + 1) (by omega) (by omega))
    obtain ⟨b2, h2⟩ := Option.isSome_iff_exists.mp (h (off + 2) (by omega) (by omega))
    obtain ⟨b3, h3⟩ := Option.isSome_iff_exists.mp (h (off + 3) (by omega) (by omega))
    simp [Memory.readWord, h0, h1, h2, h3]

end Sys2Proof.Machine
end

