-- ==== Sys2Proof/Laws/State.lean ====
section
/-!
SUPPORT. Sys2Proof/Laws/State.lean: one lemma per field per update of the state, so that no proof unfolds a record update.
The proofs are written (rfl): simp then rewrites by the lemma and the kernel never compares two states by unfolding the
stores of a whole matrix.
-/
namespace Sys2Proof.Machine

/-! ### Recording an error -/

@[simp] theorem State.raise_ie (s : State) (c : ErrCode) : (s.raise c).ie = s.ie := (rfl)
@[simp] theorem State.raise_done (s : State) (c : ErrCode) : (s.raise c).done = s.done := (rfl)
@[simp] theorem State.raise_err (s : State) (c : ErrCode) : (s.raise c).err = some (s.err.getD c) := (rfl)
@[simp] theorem State.raise_cmd (s : State) (c : ErrCode) : (s.raise c).cmd = s.cmd := (rfl)
@[simp] theorem State.raise_score (s : State) (c : ErrCode) : (s.raise c).score = s.score := (rfl)
@[simp] theorem State.raise_itersRun (s : State) (c : ErrCode) : (s.raise c).itersRun = s.itersRun := (rfl)
@[simp] theorem State.raise_gjOk (s : State) (c : ErrCode) : (s.raise c).gjOk = s.gjOk := (rfl)
@[simp] theorem State.raise_crcOut (s : State) (c : ErrCode) : (s.raise c).crcOut = s.crcOut := (rfl)
@[simp] theorem State.raise_tanhY (s : State) (c : ErrCode) : (s.raise c).tanhY = s.tanhY := (rfl)
@[simp] theorem State.raise_mem (s : State) (c : ErrCode) : (s.raise c).mem = s.mem := (rfl)
@[simp] theorem State.raise_rom (s : State) (c : ErrCode) : (s.raise c).rom = s.rom := (rfl)
@[simp] theorem State.raise_engine (s : State) (c : ErrCode) : (s.raise c).engine = s.engine := (rfl)
@[simp] theorem State.raise_rst (s : State) (c : ErrCode) : (s.raise c).rst = s.rst := (rfl)
@[simp] theorem State.raise_turns (s : State) (c : ErrCode) : (s.raise c).turns = s.turns := (rfl)
@[simp] theorem State.raise_reads (s : State) (c : ErrCode) : (s.raise c).reads = s.reads := (rfl)
@[simp] theorem State.raise_draws (s : State) (c : ErrCode) : (s.raise c).draws = s.draws := (rfl)

/-! ### Acceptance -/

@[simp] theorem State.accept_ie (s : State) (i : Instr) : (s.accept i).ie = s.ie := (rfl)
@[simp] theorem State.accept_done (s : State) (i : Instr) : (s.accept i).done = false := (rfl)
@[simp] theorem State.accept_err (s : State) (i : Instr) : (s.accept i).err = s.err := (rfl)
@[simp] theorem State.accept_cmd (s : State) (i : Instr) : (s.accept i).cmd = encode i := (rfl)
@[simp] theorem State.accept_score (s : State) (i : Instr) : (s.accept i).score = s.score := (rfl)
@[simp] theorem State.accept_itersRun (s : State) (i : Instr) : (s.accept i).itersRun = s.itersRun := (rfl)
@[simp] theorem State.accept_gjOk (s : State) (i : Instr) : (s.accept i).gjOk = s.gjOk := (rfl)
@[simp] theorem State.accept_crcOut (s : State) (i : Instr) : (s.accept i).crcOut = s.crcOut := (rfl)
@[simp] theorem State.accept_tanhY (s : State) (i : Instr) : (s.accept i).tanhY = s.tanhY := (rfl)
@[simp] theorem State.accept_mem (s : State) (i : Instr) : (s.accept i).mem = s.mem := (rfl)
@[simp] theorem State.accept_rom (s : State) (i : Instr) : (s.accept i).rom = s.rom := (rfl)
@[simp] theorem State.accept_engine (s : State) (i : Instr) : (s.accept i).engine = s.engine := (rfl)
@[simp] theorem State.accept_rst (s : State) (i : Instr) : (s.accept i).rst = s.rst := (rfl)
@[simp] theorem State.accept_turns (s : State) (i : Instr) : (s.accept i).turns = s.turns := (rfl)
@[simp] theorem State.accept_reads (s : State) (i : Instr) : (s.accept i).reads = s.reads := (rfl)
@[simp] theorem State.accept_draws (s : State) (i : Instr) : (s.accept i).draws = s.draws := (rfl)

/-! ### Completion -/

@[simp] theorem State.complete_ie (s : State) : (s.complete).ie = s.ie := (rfl)
@[simp] theorem State.complete_done (s : State) : (s.complete).done = true := (rfl)
@[simp] theorem State.complete_err (s : State) : (s.complete).err = s.err := (rfl)
@[simp] theorem State.complete_cmd (s : State) : (s.complete).cmd = s.cmd := (rfl)
@[simp] theorem State.complete_score (s : State) : (s.complete).score = s.score := (rfl)
@[simp] theorem State.complete_itersRun (s : State) : (s.complete).itersRun = s.itersRun := (rfl)
@[simp] theorem State.complete_gjOk (s : State) : (s.complete).gjOk = s.gjOk := (rfl)
@[simp] theorem State.complete_crcOut (s : State) : (s.complete).crcOut = s.crcOut := (rfl)
@[simp] theorem State.complete_tanhY (s : State) : (s.complete).tanhY = s.tanhY := (rfl)
@[simp] theorem State.complete_mem (s : State) : (s.complete).mem = s.mem := (rfl)
@[simp] theorem State.complete_rom (s : State) : (s.complete).rom = s.rom := (rfl)
@[simp] theorem State.complete_engine (s : State) : (s.complete).engine = none := (rfl)
@[simp] theorem State.complete_rst (s : State) : (s.complete).rst = s.rst := (rfl)
@[simp] theorem State.complete_turns (s : State) : (s.complete).turns = s.turns := (rfl)
@[simp] theorem State.complete_reads (s : State) : (s.complete).reads = s.reads := (rfl)
@[simp] theorem State.complete_draws (s : State) : (s.complete).draws = s.draws := (rfl)

/-! ### Storing a buffer word -/

@[simp] theorem State.store_ie (s : State) (l : Loc) (v : Word) : (s.store l v).ie = s.ie := (rfl)
@[simp] theorem State.store_done (s : State) (l : Loc) (v : Word) : (s.store l v).done = s.done := (rfl)
@[simp] theorem State.store_err (s : State) (l : Loc) (v : Word) : (s.store l v).err = s.err := (rfl)
@[simp] theorem State.store_cmd (s : State) (l : Loc) (v : Word) : (s.store l v).cmd = s.cmd := (rfl)
@[simp] theorem State.store_score (s : State) (l : Loc) (v : Word) : (s.store l v).score = s.score := (rfl)
@[simp] theorem State.store_itersRun (s : State) (l : Loc) (v : Word) : (s.store l v).itersRun = s.itersRun := (rfl)
@[simp] theorem State.store_gjOk (s : State) (l : Loc) (v : Word) : (s.store l v).gjOk = s.gjOk := (rfl)
@[simp] theorem State.store_crcOut (s : State) (l : Loc) (v : Word) : (s.store l v).crcOut = s.crcOut := (rfl)
@[simp] theorem State.store_tanhY (s : State) (l : Loc) (v : Word) : (s.store l v).tanhY = s.tanhY := (rfl)
@[simp] theorem State.store_mem (s : State) (l : Loc) (v : Word) : (s.store l v).mem = s.mem.writeWord l.offset (v &&& l.mask) := (rfl)
@[simp] theorem State.store_rom (s : State) (l : Loc) (v : Word) : (s.store l v).rom = s.rom := (rfl)
@[simp] theorem State.store_engine (s : State) (l : Loc) (v : Word) : (s.store l v).engine = s.engine := (rfl)
@[simp] theorem State.store_rst (s : State) (l : Loc) (v : Word) : (s.store l v).rst = s.rst := (rfl)
@[simp] theorem State.store_turns (s : State) (l : Loc) (v : Word) : (s.store l v).turns = s.turns := (rfl)
@[simp] theorem State.store_reads (s : State) (l : Loc) (v : Word) : (s.store l v).reads = s.reads := (rfl)
@[simp] theorem State.store_draws (s : State) (l : Loc) (v : Word) : (s.store l v).draws = s.draws := (rfl)

/-! ### Answering a read -/

@[simp] theorem State.answer_ie (s : State) (v : Word) : (s.answer v).ie = s.ie := (rfl)
@[simp] theorem State.answer_done (s : State) (v : Word) : (s.answer v).done = s.done := (rfl)
@[simp] theorem State.answer_err (s : State) (v : Word) : (s.answer v).err = s.err := (rfl)
@[simp] theorem State.answer_cmd (s : State) (v : Word) : (s.answer v).cmd = s.cmd := (rfl)
@[simp] theorem State.answer_score (s : State) (v : Word) : (s.answer v).score = s.score := (rfl)
@[simp] theorem State.answer_itersRun (s : State) (v : Word) : (s.answer v).itersRun = s.itersRun := (rfl)
@[simp] theorem State.answer_gjOk (s : State) (v : Word) : (s.answer v).gjOk = s.gjOk := (rfl)
@[simp] theorem State.answer_crcOut (s : State) (v : Word) : (s.answer v).crcOut = s.crcOut := (rfl)
@[simp] theorem State.answer_tanhY (s : State) (v : Word) : (s.answer v).tanhY = s.tanhY := (rfl)
@[simp] theorem State.answer_mem (s : State) (v : Word) : (s.answer v).mem = s.mem := (rfl)
@[simp] theorem State.answer_rom (s : State) (v : Word) : (s.answer v).rom = s.rom := (rfl)
@[simp] theorem State.answer_engine (s : State) (v : Word) : (s.answer v).engine = s.engine := (rfl)
@[simp] theorem State.answer_rst (s : State) (v : Word) : (s.answer v).rst = s.rst := (rfl)
@[simp] theorem State.answer_turns (s : State) (v : Word) : (s.answer v).turns = s.turns := (rfl)
@[simp] theorem State.answer_reads (s : State) (v : Word) : (s.answer v).reads = v :: s.reads := (rfl)
@[simp] theorem State.answer_draws (s : State) (v : Word) : (s.answer v).draws = s.draws := (rfl)

/-! ### A write to STATUS -/

@[simp] theorem State.clearStatus_ie (s : State) (v : Word) : (s.clearStatus v).ie = s.ie := (rfl)
@[simp] theorem State.clearStatus_done (s : State) (v : Word) : (s.clearStatus v).done = (s.done && !v.getLsbD 1) := (rfl)
@[simp] theorem State.clearStatus_err (s : State) (v : Word) : (s.clearStatus v).err = (if v.getLsbD 2 then none else s.err) := (rfl)
@[simp] theorem State.clearStatus_cmd (s : State) (v : Word) : (s.clearStatus v).cmd = s.cmd := (rfl)
@[simp] theorem State.clearStatus_score (s : State) (v : Word) : (s.clearStatus v).score = s.score := (rfl)
@[simp] theorem State.clearStatus_itersRun (s : State) (v : Word) : (s.clearStatus v).itersRun = s.itersRun := (rfl)
@[simp] theorem State.clearStatus_gjOk (s : State) (v : Word) : (s.clearStatus v).gjOk = s.gjOk := (rfl)
@[simp] theorem State.clearStatus_crcOut (s : State) (v : Word) : (s.clearStatus v).crcOut = s.crcOut := (rfl)
@[simp] theorem State.clearStatus_tanhY (s : State) (v : Word) : (s.clearStatus v).tanhY = s.tanhY := (rfl)
@[simp] theorem State.clearStatus_mem (s : State) (v : Word) : (s.clearStatus v).mem = s.mem := (rfl)
@[simp] theorem State.clearStatus_rom (s : State) (v : Word) : (s.clearStatus v).rom = s.rom := (rfl)
@[simp] theorem State.clearStatus_engine (s : State) (v : Word) : (s.clearStatus v).engine = s.engine := (rfl)
@[simp] theorem State.clearStatus_rst (s : State) (v : Word) : (s.clearStatus v).rst = s.rst := (rfl)
@[simp] theorem State.clearStatus_turns (s : State) (v : Word) : (s.clearStatus v).turns = s.turns := (rfl)
@[simp] theorem State.clearStatus_reads (s : State) (v : Word) : (s.clearStatus v).reads = s.reads := (rfl)
@[simp] theorem State.clearStatus_draws (s : State) (v : Word) : (s.clearStatus v).draws = s.draws := (rfl)

/-! ### The control registers at a soft reset -/

@[simp] theorem State.clearControl_ie (s : State) : (s.clearControl).ie = false := (rfl)
@[simp] theorem State.clearControl_done (s : State) : (s.clearControl).done = false := (rfl)
@[simp] theorem State.clearControl_err (s : State) : (s.clearControl).err = none := (rfl)
@[simp] theorem State.clearControl_cmd (s : State) : (s.clearControl).cmd = 0 := (rfl)
@[simp] theorem State.clearControl_score (s : State) : (s.clearControl).score = s.score := (rfl)
@[simp] theorem State.clearControl_itersRun (s : State) : (s.clearControl).itersRun = s.itersRun := (rfl)
@[simp] theorem State.clearControl_gjOk (s : State) : (s.clearControl).gjOk = s.gjOk := (rfl)
@[simp] theorem State.clearControl_crcOut (s : State) : (s.clearControl).crcOut = s.crcOut := (rfl)
@[simp] theorem State.clearControl_tanhY (s : State) : (s.clearControl).tanhY = s.tanhY := (rfl)
@[simp] theorem State.clearControl_mem (s : State) : (s.clearControl).mem = s.mem := (rfl)
@[simp] theorem State.clearControl_rom (s : State) : (s.clearControl).rom = s.rom := (rfl)
@[simp] theorem State.clearControl_engine (s : State) : (s.clearControl).engine = none := (rfl)
@[simp] theorem State.clearControl_rst (s : State) : (s.clearControl).rst = s.rst := (rfl)
@[simp] theorem State.clearControl_turns (s : State) : (s.clearControl).turns = s.turns := (rfl)
@[simp] theorem State.clearControl_reads (s : State) : (s.clearControl).reads = s.reads := (rfl)
@[simp] theorem State.clearControl_draws (s : State) : (s.clearControl).draws = s.draws := (rfl)

/-! ### Result registers -/

@[simp] theorem State.setScore_ie (s : State) (v : BitVec 7) : (s.setScore v).ie = s.ie := (rfl)
@[simp] theorem State.setScore_done (s : State) (v : BitVec 7) : (s.setScore v).done = s.done := (rfl)
@[simp] theorem State.setScore_err (s : State) (v : BitVec 7) : (s.setScore v).err = s.err := (rfl)
@[simp] theorem State.setScore_cmd (s : State) (v : BitVec 7) : (s.setScore v).cmd = s.cmd := (rfl)
@[simp] theorem State.setScore_score (s : State) (v : BitVec 7) : (s.setScore v).score = v := (rfl)
@[simp] theorem State.setScore_itersRun (s : State) (v : BitVec 7) : (s.setScore v).itersRun = s.itersRun := (rfl)
@[simp] theorem State.setScore_gjOk (s : State) (v : BitVec 7) : (s.setScore v).gjOk = s.gjOk := (rfl)
@[simp] theorem State.setScore_crcOut (s : State) (v : BitVec 7) : (s.setScore v).crcOut = s.crcOut := (rfl)
@[simp] theorem State.setScore_tanhY (s : State) (v : BitVec 7) : (s.setScore v).tanhY = s.tanhY := (rfl)
@[simp] theorem State.setScore_mem (s : State) (v : BitVec 7) : (s.setScore v).mem = s.mem := (rfl)
@[simp] theorem State.setScore_rom (s : State) (v : BitVec 7) : (s.setScore v).rom = s.rom := (rfl)
@[simp] theorem State.setScore_engine (s : State) (v : BitVec 7) : (s.setScore v).engine = s.engine := (rfl)
@[simp] theorem State.setScore_rst (s : State) (v : BitVec 7) : (s.setScore v).rst = s.rst := (rfl)
@[simp] theorem State.setScore_turns (s : State) (v : BitVec 7) : (s.setScore v).turns = s.turns := (rfl)
@[simp] theorem State.setScore_reads (s : State) (v : BitVec 7) : (s.setScore v).reads = s.reads := (rfl)
@[simp] theorem State.setScore_draws (s : State) (v : BitVec 7) : (s.setScore v).draws = s.draws := (rfl)

@[simp] theorem State.setItersRun_ie (s : State) (v : BitVec 16) : (s.setItersRun v).ie = s.ie := (rfl)
@[simp] theorem State.setItersRun_done (s : State) (v : BitVec 16) : (s.setItersRun v).done = s.done := (rfl)
@[simp] theorem State.setItersRun_err (s : State) (v : BitVec 16) : (s.setItersRun v).err = s.err := (rfl)
@[simp] theorem State.setItersRun_cmd (s : State) (v : BitVec 16) : (s.setItersRun v).cmd = s.cmd := (rfl)
@[simp] theorem State.setItersRun_score (s : State) (v : BitVec 16) : (s.setItersRun v).score = s.score := (rfl)
@[simp] theorem State.setItersRun_itersRun (s : State) (v : BitVec 16) : (s.setItersRun v).itersRun = v := (rfl)
@[simp] theorem State.setItersRun_gjOk (s : State) (v : BitVec 16) : (s.setItersRun v).gjOk = s.gjOk := (rfl)
@[simp] theorem State.setItersRun_crcOut (s : State) (v : BitVec 16) : (s.setItersRun v).crcOut = s.crcOut := (rfl)
@[simp] theorem State.setItersRun_tanhY (s : State) (v : BitVec 16) : (s.setItersRun v).tanhY = s.tanhY := (rfl)
@[simp] theorem State.setItersRun_mem (s : State) (v : BitVec 16) : (s.setItersRun v).mem = s.mem := (rfl)
@[simp] theorem State.setItersRun_rom (s : State) (v : BitVec 16) : (s.setItersRun v).rom = s.rom := (rfl)
@[simp] theorem State.setItersRun_engine (s : State) (v : BitVec 16) : (s.setItersRun v).engine = s.engine := (rfl)
@[simp] theorem State.setItersRun_rst (s : State) (v : BitVec 16) : (s.setItersRun v).rst = s.rst := (rfl)
@[simp] theorem State.setItersRun_turns (s : State) (v : BitVec 16) : (s.setItersRun v).turns = s.turns := (rfl)
@[simp] theorem State.setItersRun_reads (s : State) (v : BitVec 16) : (s.setItersRun v).reads = s.reads := (rfl)
@[simp] theorem State.setItersRun_draws (s : State) (v : BitVec 16) : (s.setItersRun v).draws = s.draws := (rfl)

@[simp] theorem State.setGjOk_ie (s : State) (v : Bool) : (s.setGjOk v).ie = s.ie := (rfl)
@[simp] theorem State.setGjOk_done (s : State) (v : Bool) : (s.setGjOk v).done = s.done := (rfl)
@[simp] theorem State.setGjOk_err (s : State) (v : Bool) : (s.setGjOk v).err = s.err := (rfl)
@[simp] theorem State.setGjOk_cmd (s : State) (v : Bool) : (s.setGjOk v).cmd = s.cmd := (rfl)
@[simp] theorem State.setGjOk_score (s : State) (v : Bool) : (s.setGjOk v).score = s.score := (rfl)
@[simp] theorem State.setGjOk_itersRun (s : State) (v : Bool) : (s.setGjOk v).itersRun = s.itersRun := (rfl)
@[simp] theorem State.setGjOk_gjOk (s : State) (v : Bool) : (s.setGjOk v).gjOk = v := (rfl)
@[simp] theorem State.setGjOk_crcOut (s : State) (v : Bool) : (s.setGjOk v).crcOut = s.crcOut := (rfl)
@[simp] theorem State.setGjOk_tanhY (s : State) (v : Bool) : (s.setGjOk v).tanhY = s.tanhY := (rfl)
@[simp] theorem State.setGjOk_mem (s : State) (v : Bool) : (s.setGjOk v).mem = s.mem := (rfl)
@[simp] theorem State.setGjOk_rom (s : State) (v : Bool) : (s.setGjOk v).rom = s.rom := (rfl)
@[simp] theorem State.setGjOk_engine (s : State) (v : Bool) : (s.setGjOk v).engine = s.engine := (rfl)
@[simp] theorem State.setGjOk_rst (s : State) (v : Bool) : (s.setGjOk v).rst = s.rst := (rfl)
@[simp] theorem State.setGjOk_turns (s : State) (v : Bool) : (s.setGjOk v).turns = s.turns := (rfl)
@[simp] theorem State.setGjOk_reads (s : State) (v : Bool) : (s.setGjOk v).reads = s.reads := (rfl)
@[simp] theorem State.setGjOk_draws (s : State) (v : Bool) : (s.setGjOk v).draws = s.draws := (rfl)

@[simp] theorem State.setCrcOut_ie (s : State) (v : BitVec 14) : (s.setCrcOut v).ie = s.ie := (rfl)
@[simp] theorem State.setCrcOut_done (s : State) (v : BitVec 14) : (s.setCrcOut v).done = s.done := (rfl)
@[simp] theorem State.setCrcOut_err (s : State) (v : BitVec 14) : (s.setCrcOut v).err = s.err := (rfl)
@[simp] theorem State.setCrcOut_cmd (s : State) (v : BitVec 14) : (s.setCrcOut v).cmd = s.cmd := (rfl)
@[simp] theorem State.setCrcOut_score (s : State) (v : BitVec 14) : (s.setCrcOut v).score = s.score := (rfl)
@[simp] theorem State.setCrcOut_itersRun (s : State) (v : BitVec 14) : (s.setCrcOut v).itersRun = s.itersRun := (rfl)
@[simp] theorem State.setCrcOut_gjOk (s : State) (v : BitVec 14) : (s.setCrcOut v).gjOk = s.gjOk := (rfl)
@[simp] theorem State.setCrcOut_crcOut (s : State) (v : BitVec 14) : (s.setCrcOut v).crcOut = v := (rfl)
@[simp] theorem State.setCrcOut_tanhY (s : State) (v : BitVec 14) : (s.setCrcOut v).tanhY = s.tanhY := (rfl)
@[simp] theorem State.setCrcOut_mem (s : State) (v : BitVec 14) : (s.setCrcOut v).mem = s.mem := (rfl)
@[simp] theorem State.setCrcOut_rom (s : State) (v : BitVec 14) : (s.setCrcOut v).rom = s.rom := (rfl)
@[simp] theorem State.setCrcOut_engine (s : State) (v : BitVec 14) : (s.setCrcOut v).engine = s.engine := (rfl)
@[simp] theorem State.setCrcOut_rst (s : State) (v : BitVec 14) : (s.setCrcOut v).rst = s.rst := (rfl)
@[simp] theorem State.setCrcOut_turns (s : State) (v : BitVec 14) : (s.setCrcOut v).turns = s.turns := (rfl)
@[simp] theorem State.setCrcOut_reads (s : State) (v : BitVec 14) : (s.setCrcOut v).reads = s.reads := (rfl)
@[simp] theorem State.setCrcOut_draws (s : State) (v : BitVec 14) : (s.setCrcOut v).draws = s.draws := (rfl)

@[simp] theorem State.setTanhY_ie (s : State) (v : F64) : (s.setTanhY v).ie = s.ie := (rfl)
@[simp] theorem State.setTanhY_done (s : State) (v : F64) : (s.setTanhY v).done = s.done := (rfl)
@[simp] theorem State.setTanhY_err (s : State) (v : F64) : (s.setTanhY v).err = s.err := (rfl)
@[simp] theorem State.setTanhY_cmd (s : State) (v : F64) : (s.setTanhY v).cmd = s.cmd := (rfl)
@[simp] theorem State.setTanhY_score (s : State) (v : F64) : (s.setTanhY v).score = s.score := (rfl)
@[simp] theorem State.setTanhY_itersRun (s : State) (v : F64) : (s.setTanhY v).itersRun = s.itersRun := (rfl)
@[simp] theorem State.setTanhY_gjOk (s : State) (v : F64) : (s.setTanhY v).gjOk = s.gjOk := (rfl)
@[simp] theorem State.setTanhY_crcOut (s : State) (v : F64) : (s.setTanhY v).crcOut = s.crcOut := (rfl)
@[simp] theorem State.setTanhY_tanhY (s : State) (v : F64) : (s.setTanhY v).tanhY = v := (rfl)
@[simp] theorem State.setTanhY_mem (s : State) (v : F64) : (s.setTanhY v).mem = s.mem := (rfl)
@[simp] theorem State.setTanhY_rom (s : State) (v : F64) : (s.setTanhY v).rom = s.rom := (rfl)
@[simp] theorem State.setTanhY_engine (s : State) (v : F64) : (s.setTanhY v).engine = s.engine := (rfl)
@[simp] theorem State.setTanhY_rst (s : State) (v : F64) : (s.setTanhY v).rst = s.rst := (rfl)
@[simp] theorem State.setTanhY_turns (s : State) (v : F64) : (s.setTanhY v).turns = s.turns := (rfl)
@[simp] theorem State.setTanhY_reads (s : State) (v : F64) : (s.setTanhY v).reads = s.reads := (rfl)
@[simp] theorem State.setTanhY_draws (s : State) (v : F64) : (s.setTanhY v).draws = s.draws := (rfl)

/-! ### Drawing a free value -/

@[simp] theorem State.drawn_ie (s : State) : (s.drawn).ie = s.ie := (rfl)
@[simp] theorem State.drawn_done (s : State) : (s.drawn).done = s.done := (rfl)
@[simp] theorem State.drawn_err (s : State) : (s.drawn).err = s.err := (rfl)
@[simp] theorem State.drawn_cmd (s : State) : (s.drawn).cmd = s.cmd := (rfl)
@[simp] theorem State.drawn_score (s : State) : (s.drawn).score = s.score := (rfl)
@[simp] theorem State.drawn_itersRun (s : State) : (s.drawn).itersRun = s.itersRun := (rfl)
@[simp] theorem State.drawn_gjOk (s : State) : (s.drawn).gjOk = s.gjOk := (rfl)
@[simp] theorem State.drawn_crcOut (s : State) : (s.drawn).crcOut = s.crcOut := (rfl)
@[simp] theorem State.drawn_tanhY (s : State) : (s.drawn).tanhY = s.tanhY := (rfl)
@[simp] theorem State.drawn_mem (s : State) : (s.drawn).mem = s.mem := (rfl)
@[simp] theorem State.drawn_rom (s : State) : (s.drawn).rom = s.rom := (rfl)
@[simp] theorem State.drawn_engine (s : State) : (s.drawn).engine = s.engine := (rfl)
@[simp] theorem State.drawn_rst (s : State) : (s.drawn).rst = s.rst := (rfl)
@[simp] theorem State.drawn_turns (s : State) : (s.drawn).turns = s.turns := (rfl)
@[simp] theorem State.drawn_reads (s : State) : (s.drawn).reads = s.reads := (rfl)
@[simp] theorem State.drawn_draws (s : State) : (s.drawn).draws = s.draws + 1 := (rfl)

/-! ### Storing and forgetting lists of words -/

@[simp] theorem State.storeAll_ie (s : State) (ws : List (Loc × Word)) : (s.storeAll ws).ie = s.ie := by
  induction ws generalizing s with
  | nil => rfl
  | cons w ws ih => exact ih (s.store w.1 w.2)
@[simp] theorem State.writeHard_ie (s : State) (c : Bits174) : (s.writeHard c).ie = s.ie := s.storeAll_ie _
@[simp] theorem State.writeGj_ie (s : State) (rows : List GjRow) (labels : List Label) :
    (s.writeGj rows labels).ie = s.ie := s.storeAll_ie _
@[simp] theorem State.storeAll_done (s : State) (ws : List (Loc × Word)) : (s.storeAll ws).done = s.done := by
  induction ws generalizing s with
  | nil => rfl
  | cons w ws ih => exact ih (s.store w.1 w.2)
@[simp] theorem State.writeHard_done (s : State) (c : Bits174) : (s.writeHard c).done = s.done := s.storeAll_done _
@[simp] theorem State.writeGj_done (s : State) (rows : List GjRow) (labels : List Label) :
    (s.writeGj rows labels).done = s.done := s.storeAll_done _
@[simp] theorem State.storeAll_err (s : State) (ws : List (Loc × Word)) : (s.storeAll ws).err = s.err := by
  induction ws generalizing s with
  | nil => rfl
  | cons w ws ih => exact ih (s.store w.1 w.2)
@[simp] theorem State.writeHard_err (s : State) (c : Bits174) : (s.writeHard c).err = s.err := s.storeAll_err _
@[simp] theorem State.writeGj_err (s : State) (rows : List GjRow) (labels : List Label) :
    (s.writeGj rows labels).err = s.err := s.storeAll_err _
@[simp] theorem State.storeAll_cmd (s : State) (ws : List (Loc × Word)) : (s.storeAll ws).cmd = s.cmd := by
  induction ws generalizing s with
  | nil => rfl
  | cons w ws ih => exact ih (s.store w.1 w.2)
@[simp] theorem State.writeHard_cmd (s : State) (c : Bits174) : (s.writeHard c).cmd = s.cmd := s.storeAll_cmd _
@[simp] theorem State.writeGj_cmd (s : State) (rows : List GjRow) (labels : List Label) :
    (s.writeGj rows labels).cmd = s.cmd := s.storeAll_cmd _
@[simp] theorem State.storeAll_score (s : State) (ws : List (Loc × Word)) : (s.storeAll ws).score = s.score := by
  induction ws generalizing s with
  | nil => rfl
  | cons w ws ih => exact ih (s.store w.1 w.2)
@[simp] theorem State.writeHard_score (s : State) (c : Bits174) : (s.writeHard c).score = s.score := s.storeAll_score _
@[simp] theorem State.writeGj_score (s : State) (rows : List GjRow) (labels : List Label) :
    (s.writeGj rows labels).score = s.score := s.storeAll_score _
@[simp] theorem State.storeAll_itersRun (s : State) (ws : List (Loc × Word)) : (s.storeAll ws).itersRun = s.itersRun := by
  induction ws generalizing s with
  | nil => rfl
  | cons w ws ih => exact ih (s.store w.1 w.2)
@[simp] theorem State.writeHard_itersRun (s : State) (c : Bits174) : (s.writeHard c).itersRun = s.itersRun := s.storeAll_itersRun _
@[simp] theorem State.writeGj_itersRun (s : State) (rows : List GjRow) (labels : List Label) :
    (s.writeGj rows labels).itersRun = s.itersRun := s.storeAll_itersRun _
@[simp] theorem State.storeAll_gjOk (s : State) (ws : List (Loc × Word)) : (s.storeAll ws).gjOk = s.gjOk := by
  induction ws generalizing s with
  | nil => rfl
  | cons w ws ih => exact ih (s.store w.1 w.2)
@[simp] theorem State.writeHard_gjOk (s : State) (c : Bits174) : (s.writeHard c).gjOk = s.gjOk := s.storeAll_gjOk _
@[simp] theorem State.writeGj_gjOk (s : State) (rows : List GjRow) (labels : List Label) :
    (s.writeGj rows labels).gjOk = s.gjOk := s.storeAll_gjOk _
@[simp] theorem State.storeAll_crcOut (s : State) (ws : List (Loc × Word)) : (s.storeAll ws).crcOut = s.crcOut := by
  induction ws generalizing s with
  | nil => rfl
  | cons w ws ih => exact ih (s.store w.1 w.2)
@[simp] theorem State.writeHard_crcOut (s : State) (c : Bits174) : (s.writeHard c).crcOut = s.crcOut := s.storeAll_crcOut _
@[simp] theorem State.writeGj_crcOut (s : State) (rows : List GjRow) (labels : List Label) :
    (s.writeGj rows labels).crcOut = s.crcOut := s.storeAll_crcOut _
@[simp] theorem State.storeAll_tanhY (s : State) (ws : List (Loc × Word)) : (s.storeAll ws).tanhY = s.tanhY := by
  induction ws generalizing s with
  | nil => rfl
  | cons w ws ih => exact ih (s.store w.1 w.2)
@[simp] theorem State.writeHard_tanhY (s : State) (c : Bits174) : (s.writeHard c).tanhY = s.tanhY := s.storeAll_tanhY _
@[simp] theorem State.writeGj_tanhY (s : State) (rows : List GjRow) (labels : List Label) :
    (s.writeGj rows labels).tanhY = s.tanhY := s.storeAll_tanhY _
@[simp] theorem State.storeAll_rom (s : State) (ws : List (Loc × Word)) : (s.storeAll ws).rom = s.rom := by
  induction ws generalizing s with
  | nil => rfl
  | cons w ws ih => exact ih (s.store w.1 w.2)
@[simp] theorem State.writeHard_rom (s : State) (c : Bits174) : (s.writeHard c).rom = s.rom := s.storeAll_rom _
@[simp] theorem State.writeGj_rom (s : State) (rows : List GjRow) (labels : List Label) :
    (s.writeGj rows labels).rom = s.rom := s.storeAll_rom _
@[simp] theorem State.storeAll_engine (s : State) (ws : List (Loc × Word)) : (s.storeAll ws).engine = s.engine := by
  induction ws generalizing s with
  | nil => rfl
  | cons w ws ih => exact ih (s.store w.1 w.2)
@[simp] theorem State.writeHard_engine (s : State) (c : Bits174) : (s.writeHard c).engine = s.engine := s.storeAll_engine _
@[simp] theorem State.writeGj_engine (s : State) (rows : List GjRow) (labels : List Label) :
    (s.writeGj rows labels).engine = s.engine := s.storeAll_engine _
@[simp] theorem State.storeAll_rst (s : State) (ws : List (Loc × Word)) : (s.storeAll ws).rst = s.rst := by
  induction ws generalizing s with
  | nil => rfl
  | cons w ws ih => exact ih (s.store w.1 w.2)
@[simp] theorem State.writeHard_rst (s : State) (c : Bits174) : (s.writeHard c).rst = s.rst := s.storeAll_rst _
@[simp] theorem State.writeGj_rst (s : State) (rows : List GjRow) (labels : List Label) :
    (s.writeGj rows labels).rst = s.rst := s.storeAll_rst _
@[simp] theorem State.storeAll_turns (s : State) (ws : List (Loc × Word)) : (s.storeAll ws).turns = s.turns := by
  induction ws generalizing s with
  | nil => rfl
  | cons w ws ih => exact ih (s.store w.1 w.2)
@[simp] theorem State.writeHard_turns (s : State) (c : Bits174) : (s.writeHard c).turns = s.turns := s.storeAll_turns _
@[simp] theorem State.writeGj_turns (s : State) (rows : List GjRow) (labels : List Label) :
    (s.writeGj rows labels).turns = s.turns := s.storeAll_turns _
@[simp] theorem State.storeAll_reads (s : State) (ws : List (Loc × Word)) : (s.storeAll ws).reads = s.reads := by
  induction ws generalizing s with
  | nil => rfl
  | cons w ws ih => exact ih (s.store w.1 w.2)
@[simp] theorem State.writeHard_reads (s : State) (c : Bits174) : (s.writeHard c).reads = s.reads := s.storeAll_reads _
@[simp] theorem State.writeGj_reads (s : State) (rows : List GjRow) (labels : List Label) :
    (s.writeGj rows labels).reads = s.reads := s.storeAll_reads _
@[simp] theorem State.storeAll_draws (s : State) (ws : List (Loc × Word)) : (s.storeAll ws).draws = s.draws := by
  induction ws generalizing s with
  | nil => rfl
  | cons w ws ih => exact ih (s.store w.1 w.2)
@[simp] theorem State.writeHard_draws (s : State) (c : Bits174) : (s.writeHard c).draws = s.draws := s.storeAll_draws _
@[simp] theorem State.writeGj_draws (s : State) (rows : List GjRow) (labels : List Label) :
    (s.writeGj rows labels).draws = s.draws := s.storeAll_draws _

@[simp] theorem State.forget_ie (s : State) (l : Loc) : (s.forget l).ie = s.ie := by cases l <;> rfl
@[simp] theorem State.forgetAll_ie (s : State) (ls : List Loc) : (s.forgetAll ls).ie = s.ie := by
  induction ls generalizing s with
  | nil => rfl
  | cons l ls ih => exact (ih (s.forget l)).trans (s.forget_ie l)
@[simp] theorem State.abandon_ie (s : State) : s.abandon.ie = s.ie := by
  unfold State.abandon
  split
  · exact s.forgetAll_ie _
  · rfl
@[simp] theorem State.forget_done (s : State) (l : Loc) : (s.forget l).done = s.done := by cases l <;> rfl
@[simp] theorem State.forgetAll_done (s : State) (ls : List Loc) : (s.forgetAll ls).done = s.done := by
  induction ls generalizing s with
  | nil => rfl
  | cons l ls ih => exact (ih (s.forget l)).trans (s.forget_done l)
@[simp] theorem State.abandon_done (s : State) : s.abandon.done = s.done := by
  unfold State.abandon
  split
  · exact s.forgetAll_done _
  · rfl
@[simp] theorem State.forget_err (s : State) (l : Loc) : (s.forget l).err = s.err := by cases l <;> rfl
@[simp] theorem State.forgetAll_err (s : State) (ls : List Loc) : (s.forgetAll ls).err = s.err := by
  induction ls generalizing s with
  | nil => rfl
  | cons l ls ih => exact (ih (s.forget l)).trans (s.forget_err l)
@[simp] theorem State.abandon_err (s : State) : s.abandon.err = s.err := by
  unfold State.abandon
  split
  · exact s.forgetAll_err _
  · rfl
@[simp] theorem State.forget_cmd (s : State) (l : Loc) : (s.forget l).cmd = s.cmd := by cases l <;> rfl
@[simp] theorem State.forgetAll_cmd (s : State) (ls : List Loc) : (s.forgetAll ls).cmd = s.cmd := by
  induction ls generalizing s with
  | nil => rfl
  | cons l ls ih => exact (ih (s.forget l)).trans (s.forget_cmd l)
@[simp] theorem State.abandon_cmd (s : State) : s.abandon.cmd = s.cmd := by
  unfold State.abandon
  split
  · exact s.forgetAll_cmd _
  · rfl
@[simp] theorem State.forget_rom (s : State) (l : Loc) : (s.forget l).rom = s.rom := by cases l <;> rfl
@[simp] theorem State.forgetAll_rom (s : State) (ls : List Loc) : (s.forgetAll ls).rom = s.rom := by
  induction ls generalizing s with
  | nil => rfl
  | cons l ls ih => exact (ih (s.forget l)).trans (s.forget_rom l)
@[simp] theorem State.abandon_rom (s : State) : s.abandon.rom = s.rom := by
  unfold State.abandon
  split
  · exact s.forgetAll_rom _
  · rfl
@[simp] theorem State.forget_engine (s : State) (l : Loc) : (s.forget l).engine = s.engine := by cases l <;> rfl
@[simp] theorem State.forgetAll_engine (s : State) (ls : List Loc) : (s.forgetAll ls).engine = s.engine := by
  induction ls generalizing s with
  | nil => rfl
  | cons l ls ih => exact (ih (s.forget l)).trans (s.forget_engine l)
@[simp] theorem State.abandon_engine (s : State) : s.abandon.engine = s.engine := by
  unfold State.abandon
  split
  · exact s.forgetAll_engine _
  · rfl
@[simp] theorem State.forget_rst (s : State) (l : Loc) : (s.forget l).rst = s.rst := by cases l <;> rfl
@[simp] theorem State.forgetAll_rst (s : State) (ls : List Loc) : (s.forgetAll ls).rst = s.rst := by
  induction ls generalizing s with
  | nil => rfl
  | cons l ls ih => exact (ih (s.forget l)).trans (s.forget_rst l)
@[simp] theorem State.abandon_rst (s : State) : s.abandon.rst = s.rst := by
  unfold State.abandon
  split
  · exact s.forgetAll_rst _
  · rfl
@[simp] theorem State.forget_turns (s : State) (l : Loc) : (s.forget l).turns = s.turns := by cases l <;> rfl
@[simp] theorem State.forgetAll_turns (s : State) (ls : List Loc) : (s.forgetAll ls).turns = s.turns := by
  induction ls generalizing s with
  | nil => rfl
  | cons l ls ih => exact (ih (s.forget l)).trans (s.forget_turns l)
@[simp] theorem State.abandon_turns (s : State) : s.abandon.turns = s.turns := by
  unfold State.abandon
  split
  · exact s.forgetAll_turns _
  · rfl
@[simp] theorem State.forget_reads (s : State) (l : Loc) : (s.forget l).reads = s.reads := by cases l <;> rfl
@[simp] theorem State.forgetAll_reads (s : State) (ls : List Loc) : (s.forgetAll ls).reads = s.reads := by
  induction ls generalizing s with
  | nil => rfl
  | cons l ls ih => exact (ih (s.forget l)).trans (s.forget_reads l)
@[simp] theorem State.abandon_reads (s : State) : s.abandon.reads = s.reads := by
  unfold State.abandon
  split
  · exact s.forgetAll_reads _
  · rfl

/-! ### The outputs of a command -/

@[simp] theorem State.writeOutputs_ie (s : State) (w : Work) : (s.writeOutputs w).ie = s.ie := by
  cases w <;> simp only [State.writeOutputs]
  case decode => simp
  case gjInvert => split <;> simp
  case tanh => split <;> simp
  all_goals simp
@[simp] theorem State.writeOutputs_done (s : State) (w : Work) : (s.writeOutputs w).done = s.done := by
  cases w <;> simp only [State.writeOutputs]
  case decode => simp
  case gjInvert => split <;> simp
  case tanh => split <;> simp
  all_goals simp
@[simp] theorem State.writeOutputs_err (s : State) (w : Work) : (s.writeOutputs w).err = s.err := by
  cases w <;> simp only [State.writeOutputs]
  case decode => simp
  case gjInvert => split <;> simp
  case tanh => split <;> simp
  all_goals simp
@[simp] theorem State.writeOutputs_cmd (s : State) (w : Work) : (s.writeOutputs w).cmd = s.cmd := by
  cases w <;> simp only [State.writeOutputs]
  case decode => simp
  case gjInvert => split <;> simp
  case tanh => split <;> simp
  all_goals simp
@[simp] theorem State.writeOutputs_rom (s : State) (w : Work) : (s.writeOutputs w).rom = s.rom := by
  cases w <;> simp only [State.writeOutputs]
  case decode => simp
  case gjInvert => split <;> simp
  case tanh => split <;> simp
  all_goals simp
@[simp] theorem State.writeOutputs_engine (s : State) (w : Work) : (s.writeOutputs w).engine = s.engine := by
  cases w <;> simp only [State.writeOutputs]
  case decode => simp
  case gjInvert => split <;> simp
  case tanh => split <;> simp
  all_goals simp
@[simp] theorem State.writeOutputs_rst (s : State) (w : Work) : (s.writeOutputs w).rst = s.rst := by
  cases w <;> simp only [State.writeOutputs]
  case decode => simp
  case gjInvert => split <;> simp
  case tanh => split <;> simp
  all_goals simp
@[simp] theorem State.writeOutputs_turns (s : State) (w : Work) : (s.writeOutputs w).turns = s.turns := by
  cases w <;> simp only [State.writeOutputs]
  case decode => simp
  case gjInvert => split <;> simp
  case tanh => split <;> simp
  all_goals simp
@[simp] theorem State.writeOutputs_reads (s : State) (w : Work) : (s.writeOutputs w).reads = s.reads := by
  cases w <;> simp only [State.writeOutputs]
  case decode => simp
  case gjInvert => split <;> simp
  case tanh => split <;> simp
  all_goals simp

@[simp] theorem State.deliver_ie (s : State) (w : Work) : (s.deliver w).ie = s.ie :=
  s.writeOutputs_ie w
@[simp] theorem State.deliver_err (s : State) (w : Work) : (s.deliver w).err = s.err :=
  s.writeOutputs_err w
@[simp] theorem State.deliver_cmd (s : State) (w : Work) : (s.deliver w).cmd = s.cmd :=
  s.writeOutputs_cmd w
@[simp] theorem State.deliver_rom (s : State) (w : Work) : (s.deliver w).rom = s.rom :=
  s.writeOutputs_rom w
@[simp] theorem State.deliver_rst (s : State) (w : Work) : (s.deliver w).rst = s.rst :=
  s.writeOutputs_rst w
@[simp] theorem State.deliver_turns (s : State) (w : Work) : (s.deliver w).turns = s.turns :=
  s.writeOutputs_turns w
@[simp] theorem State.deliver_reads (s : State) (w : Work) : (s.deliver w).reads = s.reads :=
  s.writeOutputs_reads w
@[simp] theorem State.deliver_done (s : State) (w : Work) : (s.deliver w).done = true := (rfl)
@[simp] theorem State.deliver_engine (s : State) (w : Work) : (s.deliver w).engine = none := (rfl)

end Sys2Proof.Machine
end

