-- ==== Sys2Proof/Laws/Ops.lean ====
section
/-!
SUPPORT. Sys2Proof/Laws/Ops.lean: what storing and forgetting buffer words and accepting a command can do.
-/
namespace Sys2Proof.Machine

/-! ### Locations -/

theorem Loc.offset_mod_four (l : Loc) : l.offset % 4 = 0 := by
  cases l <;> simp only [Loc.offset, highBy] <;> (try split) <;> omega

/-- Two locations that share a byte have the same offset. -/
theorem Loc.covers_unique {l l' : Loc} {a : Nat} (h : l.covers a) (h' : l'.covers a) : l.offset = l'.offset := by
  have := l.offset_mod_four
  have := l'.offset_mod_four
  simp only [Loc.covers] at h h'
  omega

/-- The buffer words stand at rising offsets. -/
theorem bufferLocs_offsets_rise : (bufferLocs.map Loc.offset).Pairwise (· < ·) := by
  rw [← List.isChain_iff_pairwise]
  decide +kernel

/-- What a command reads is buffer words, for CRC14 of a legal length. -/
theorem inputLocs_subset_bufferLocs {i : Instr} (h : i.wellFormed = true) : inputLocs i ⊆ bufferLocs := by
  intro l hl
  simp only [bufferLocs, List.mem_append]
  cases i with
  | check => exact .inl (.inl (.inl (.inl (.inr hl))))
  | decodeProb _ => exact .inl (.inl (.inr hl))
  | decodeLlr _ => exact .inl (.inl (.inr hl))
  | crc14 n =>
    obtain ⟨w, hw, rfl⟩ := List.mem_map.mp hl
    have h : n.toNat ≤ 256 := of_decide_eq_true h
    have hw : w < (n.toNat + 31) / 32 := List.mem_range.mp hw
    exact .inl (.inl (.inl (.inr (List.mem_map.mpr ⟨w, List.mem_range.mpr (by omega), rfl⟩))))
  | gjInvert => exact (List.mem_append.mp hl).elim .inr fun h => .inl (.inr h)
  | tanh => exact .inl (.inl (.inl (.inl (.inl hl))))

/-! ### Storing -/

/-- What a byte reads as after a buffer word was stored. -/
theorem State.readByte_store (s : State) (l : Loc) (v : Word) (a : Nat) :
    (s.store l v).readByte a = if l.covers a then some (laneOf (v &&& l.mask) (a - l.offset)) else s.readByte a := by
  simp [State.readByte, Memory.read_writeWord]

/-- A stored word reads back as its data bits. -/
theorem State.readWord_store_same (s : State) (l : Loc) (v : Word) :
    (s.store l v).mem.readWord l.offset = some (v &&& l.mask) := by
  simp [Memory.readWord_writeWord_same]

/-- A word at another offset reads as before. -/
theorem State.readWord_store_other (s : State) (l l' : Loc) (v : Word) (h : l'.offset ≠ l.offset) :
    (s.store l v).mem.readWord l'.offset = s.mem.readWord l'.offset := by
  have := l.offset_mod_four
  have := l'.offset_mod_four
  rw [State.store_mem, Memory.readWord_writeWord_other]
  omega

theorem State.wf_store (s : State) (l : Loc) (v : Word) (h : s.mem.wf) : (s.store l v).mem.wf := by
  rw [State.store_mem]
  exact Memory.wf_writeWord _ _ _ h

theorem State.storeAll_cons (s : State) (w : Loc × Word) (ws : List (Loc × Word)) :
    s.storeAll (w :: ws) = (s.store w.1 w.2).storeAll ws := rfl

theorem State.wf_storeAll (s : State) (ws : List (Loc × Word)) (h : s.mem.wf) : (s.storeAll ws).mem.wf := by
  induction ws generalizing s with
  | nil => exact h
  | cons w ws ih => exact ih _ (s.wf_store w.1 w.2 h)

/-- A byte of none of the stored words reads as before. -/
theorem State.readByte_storeAll (s : State) (ws : List (Loc × Word)) (a : Nat) (h : ∀ w ∈ ws, ¬ w.1.covers a) :
    (s.storeAll ws).readByte a = s.readByte a := by
  induction ws generalizing s with
  | nil => rfl
  | cons w ws ih =>
    rw [State.storeAll_cons, ih _ fun w' hw' => h w' (List.mem_cons_of_mem _ hw'), State.readByte_store,
      if_neg (h w List.mem_cons_self)]

/-- A word at none of the stored offsets reads as before. -/
theorem State.readWord_storeAll_other (s : State) (ws : List (Loc × Word)) (l : Loc)
    (h : ∀ w ∈ ws, l.offset ≠ w.1.offset) :
    (s.storeAll ws).mem.readWord l.offset = s.mem.readWord l.offset := by
  induction ws generalizing s with
  | nil => rfl
  | cons w ws ih =>
    rw [State.storeAll_cons, ih _ fun w' hw' => h w' (List.mem_cons_of_mem _ hw'),
      State.readWord_store_other _ _ _ _ (h w List.mem_cons_self)]

/-- Each of a list of words at distinct offsets reads back as its data bits. -/
theorem State.readWord_storeAll_same (s : State) (ws : List (Loc × Word)) (l : Loc) (v : Word)
    (hd : (ws.map fun w => w.1.offset).Nodup) (h : (l, v) ∈ ws) :
    (s.storeAll ws).mem.readWord l.offset = some (v &&& l.mask) := by
  induction ws generalizing s with
  | nil => simp at h
  | cons w ws ih =>
    rw [List.map_cons, List.nodup_cons] at hd
    rw [State.storeAll_cons]
    rcases List.mem_cons.mp h with rfl | h
    · rw [State.readWord_storeAll_other _ _ _ fun w' hw' heq => hd.1 (heq ▸ List.mem_map_of_mem hw'),
        State.readWord_store_same]
    · exact ih _ hd.2 h

/-! ### Forgetting -/

/-- The buffer words a list of forgotten locations touches. -/
def forgetsBuffer : Loc → Bool
  | .hard _ | .which _ | .gjM _ _ => true
  | _ => false

/-- Forgetting a buffer word stores some word there; forgetting another location stores nothing. -/
theorem State.forget_mem (s : State) (l : Loc) :
    (s.forget l).mem = if forgetsBuffer l then (s.store l (Config.freeWord s.draws)).mem else s.mem := by
  cases l <;> simp [State.forget, forgetsBuffer]

theorem State.wf_forgetAll (s : State) (ls : List Loc) (h : s.mem.wf) : (s.forgetAll ls).mem.wf := by
  induction ls generalizing s with
  | nil => exact h
  | cons l ls ih =>
    refine ih (s.forget l) ?_
    rw [State.forget_mem]
    split
    · exact s.wf_store _ _ h
    · exact h

/-- A byte of none of the forgotten buffer words reads as before. -/
theorem State.readByte_forgetAll (s : State) (ls : List Loc) (a : Nat)
    (h : ∀ l ∈ ls, forgetsBuffer l = true → ¬ l.covers a) : (s.forgetAll ls).readByte a = s.readByte a := by
  induction ls generalizing s with
  | nil => rfl
  | cons l ls ih =>
    refine (ih (s.forget l) fun l' hl' => h l' (List.mem_cons_of_mem _ hl')).trans ?_
    simp only [State.readByte, State.forget_mem]
    split_ifs with hb
    · exact (s.readByte_store l _ a).trans (if_neg (h l List.mem_cons_self hb))
    · rfl

/-! ### Acceptance -/

theorem State.unwritten_eq_none (s : State) (i : Instr) :
    s.unwritten i = none ↔ ∀ l ∈ inputLocs i, s.written l = true := by
  simp [State.unwritten, List.find?_eq_none]

/-- A command that is ready is accepted and does what it does from there. -/
theorem acceptCommand_ready {i : Instr} {s : State} (h : Ready i s)
    (run : State → Host.Outcome State Fault Refusal) : acceptCommand i run s = run (s.accept i) := by
  obtain ⟨hb, hw, hi⟩ := h
  simp [acceptCommand, hb, hw, (s.unwritten_eq_none i).mpr hi]

/-- Everything the acceptance of a command can do. -/
theorem acceptCommand_cases (i : Instr) (run : State → Host.Outcome State Fault Refusal) (s : State) :
    (s.busy = true ∧ acceptCommand i run s = .next (s.raise .busyAccess)) ∨
    (s.busy = false ∧ i.wellFormed = false ∧ acceptCommand i run s = .next (s.raise .badArg)) ∨
    (s.busy = false ∧ i.wellFormed = true ∧
      ∃ l ∈ inputLocs i, s.written l = false ∧ acceptCommand i run s = .fault (.unwrittenInput l.offset)) ∨
    (Ready i s ∧ acceptCommand i run s = run (s.accept i)) := by
  by_cases hb : s.busy = true
  · exact .inl ⟨hb, by simp [acceptCommand, hb]⟩
  rw [Bool.not_eq_true] at hb
  by_cases hw : i.wellFormed = true
  · cases hu : s.unwritten i with
    | none =>
      have hr : Ready i s := ⟨hb, hw, (s.unwritten_eq_none i).mp hu⟩
      exact .inr (.inr (.inr ⟨hr, acceptCommand_ready hr run⟩))
    | some l =>
      refine .inr (.inr (.inl ⟨hb, hw, l, List.mem_of_find?_eq_some hu, ?_, by simp [acceptCommand, hb, hw, hu]⟩))
      simpa using List.find?_some hu
  · rw [Bool.not_eq_true] at hw
    exact .inr (.inl ⟨hb, hw, by simp [acceptCommand, hb, hw]⟩)

/-- An idle block has no running command. -/
theorem State.engine_of_idle {s : State} (h : s.busy = false) : s.engine = none := by
  simpa [State.busy] using h

end Sys2Proof.Machine
end

