-- ==== Sys2Proof/Laws/Operands.lean ====
section
/-!
SUPPORT. Sys2Proof/Laws/Operands.lean: results written back read as they were written, and what writing them leaves alone.
-/
namespace Sys2Proof.Machine

/-- A list of words, one at each of a list of locations. -/
theorem offsets_map {α : Type} (ls : List α) (f : α → Loc) (g : α → Word) :
    ((ls.map fun a => (f a, g a)).map fun w => w.1.offset) = ls.map fun a => (f a).offset := by
  simp [List.map_map, Function.comp_def]

/-! ### HARD -/

theorem hard_offsets_nodup : ((List.range 6).map fun w => (Loc.hard w).offset).Nodup := by decide

theorem State.readWord_writeHard (s : State) (c : Bits174) (w : Nat) (h : w < 6) :
    (s.writeHard c).mem.readWord (Loc.hard w).offset = some (packedWord c w &&& (Loc.hard w).mask) := by
  refine State.readWord_storeAll_same s _ (.hard w) _ ?_ ?_
  · rw [offsets_map]; exact hard_offsets_nodup
  · exact List.mem_map.mpr ⟨w, List.mem_range.mpr h, rfl⟩

/-- A bit of the mask of `HARD` is set where the bit belongs to the codeword. -/
theorem getLsbD_hard_mask (i : Nat) (h : i < 174) : ((Loc.hard (i / 32)).mask).getLsbD (i % 32) = true := by
  have hall : ∀ b < 32, (0xFFFFFFFF : Word).getLsbD b = true := by decide
  have h14 : ∀ b < 14, (0x00003FFF : Word).getLsbD b = true := by decide
  simp only [Loc.mask]
  split
  · exact h14 _ (by omega)
  · exact hall _ (by omega)

theorem State.hardWord_writeHard (s : State) (c : Bits174) : (s.writeHard c).hardWord = c := by
  apply BitVec.eq_of_getLsbD_eq
  intro i hi
  rw [State.getLsbD_hardWord _ _ hi, State.word, State.readWord_writeHard _ _ _ (by omega)]
  rw [Option.getD_some, BitVec.getLsbD_and, getLsbD_hard_mask _ hi, Bool.and_true,
    getLsbD_packedWord _ _ _ (Nat.mod_lt _ (by omega)), Nat.div_add_mod]

/-- The codeword depends on the storage only. -/
theorem State.hardWord_congr {s t : State} (h : s.mem = t.mem) : s.hardWord = t.hardWord := by
  simp only [State.hardWord, State.word, h]

theorem State.llrs_congr {s t : State} (h : s.mem = t.mem) : s.llrs = t.llrs := by
  have : s.llr = t.llr := by funext i; simp only [State.llr, State.word, h]
  simp only [State.llrs, this]

theorem State.crcMsg_congr {s t : State} (h : s.mem = t.mem) (n : Nat) : s.crcMsg n = t.crcMsg n := by
  simp only [State.crcMsg, State.word, h]

theorem State.tanhX_congr {s t : State} (h : s.mem = t.mem) : s.tanhX = t.tanhX := by
  simp only [State.tanhX, State.word, h]

theorem State.gjRows_congr {s t : State} (h : s.mem = t.mem) : s.gjRows = t.gjRows := by
  have : s.gjRow = t.gjRow := by funext r; simp only [State.gjRow, State.word, h]
  simp only [State.gjRows, this]

theorem State.labels_congr {s t : State} (h : s.mem = t.mem) : s.labels = t.labels := by
  simp only [State.labels, State.word, h]

/-! ### GJ_M and WHICH -/

/-- The words `writeGj` stores, each once. -/
theorem gj_offsets_nodup (f : Nat → Nat → Word) (g : Nat → Word) :
    ((((List.range 174).flatMap fun r => (List.range 6).map fun w => (Loc.gjM r w, f r w)) ++
      (List.range 174).map fun k => (Loc.which k, g k)).map fun w => w.1.offset).Nodup := by
  rw [List.map_append, List.map_flatMap, offsets_map]
  simp only [offsets_map]
  refine List.Nodup.append ?_ ?_ ?_
  · rw [List.nodup_flatMap]
    refine ⟨fun r _ => ?_, ?_⟩
    · exact (List.nodup_range).map_on fun a _ b _ hab => by simp only [Loc.offset] at hab; omega
    · refine List.nodup_range.imp_of_mem fun {a b} _ _ hab => ?_
      simp only [Function.onFun, List.disjoint_left, List.mem_map, List.mem_range, Loc.offset]
      rintro x ⟨w, hw, rfl⟩ ⟨w', hw', h⟩
      omega
  · exact (List.nodup_range).map_on fun a _ b _ hab => by simp only [Loc.offset] at hab; omega
  · simp only [List.disjoint_left, List.mem_flatMap, List.mem_map, List.mem_range, Loc.offset]
    rintro x ⟨r, hr, w, hw, rfl⟩ ⟨k, hk, h⟩
    omega

theorem State.readWord_writeGj_row (s : State) (rows : List GjRow) (labels : List Label) (r w : Nat) (hr : r < 174)
    (hw : w < 6) : (s.writeGj rows labels).mem.readWord (Loc.gjM r w).offset =
      some (packedWord (rows.getD r 0) w &&& (Loc.gjM r w).mask) := by
  refine State.readWord_storeAll_same s _ (.gjM r w) _ (gj_offsets_nodup _ _) ?_
  exact List.mem_append_left _ (List.mem_flatMap.mpr
    ⟨r, List.mem_range.mpr hr, List.mem_map.mpr ⟨w, List.mem_range.mpr hw, rfl⟩⟩)

theorem State.readWord_writeGj_which (s : State) (rows : List GjRow) (labels : List Label) (k : Nat) (hk : k < 174) :
    (s.writeGj rows labels).mem.readWord (Loc.which k).offset =
      some ((labels.getD k 0).setWidth 32 &&& (Loc.which k).mask) := by
  refine State.readWord_storeAll_same s _ (.which k) _ (gj_offsets_nodup _ _) ?_
  exact List.mem_append_right _ (List.mem_map.mpr ⟨k, List.mem_range.mpr hk, rfl⟩)

theorem getLsbD_gj_mask (r c : Nat) (h : c < 182) : ((Loc.gjM r (c / 32)).mask).getLsbD (c % 32) = true := by
  have hall : ∀ b < 32, (0xFFFFFFFF : Word).getLsbD b = true := by decide
  have h22 : ∀ b < 22, (0x003FFFFF : Word).getLsbD b = true := by decide
  simp only [Loc.mask]
  split
  · exact h22 _ (by omega)
  · exact hall _ (by omega)

theorem State.gjRow_writeGj (s : State) (rows : List GjRow) (labels : List Label) (r : Nat) (hr : r < 174) :
    (s.writeGj rows labels).gjRow r = rows.getD r 0 := by
  apply BitVec.eq_of_getLsbD_eq
  intro c hc
  rw [State.getLsbD_gjRow _ _ _ hc, State.word, State.readWord_writeGj_row _ _ _ _ _ hr (by omega)]
  rw [Option.getD_some, BitVec.getLsbD_and, getLsbD_gj_mask _ _ hc, Bool.and_true,
    getLsbD_packedWord _ _ _ (Nat.mod_lt _ (by omega)), Nat.div_add_mod]

theorem list_map_getD_range {α : Type} (l : List α) (d : α) : (List.range l.length).map (fun k => l.getD k d) = l := by
  apply List.ext_getElem
  · simp
  · intro i h1 h2
    simp [h2]

theorem State.gjRows_writeGj (s : State) (rows : List GjRow) (labels : List Label) (h : rows.length = 174) :
    (s.writeGj rows labels).gjRows = rows := by
  rw [State.gjRows, List.map_congr_left fun r hr => s.gjRow_writeGj rows labels r (List.mem_range.mp hr), ← h,
    list_map_getD_range]

theorem State.labels_writeGj (s : State) (rows : List GjRow) (labels : List Label) (h : labels.length = 174) :
    (s.writeGj rows labels).labels = labels := by
  rw [State.labels, List.map_congr_left (g := fun k => labels.getD k 0), ← h, list_map_getD_range]
  intro k hk
  rw [State.word, State.readWord_writeGj_which _ _ _ _ (List.mem_range.mp hk), Option.getD_some]
  have h8 : ∀ b < 8, (0x000000FF : Word).getLsbD b = true := by decide
  simp only [Loc.mask]
  generalize labels.getD k 0 = x
  apply BitVec.eq_of_getLsbD_eq
  intro i hi
  rw [BitVec.getLsbD_setWidth, BitVec.getLsbD_and, BitVec.getLsbD_setWidth, h8 i hi]
  simp [hi, show i < 32 by omega]

/-! ### What the outputs of a command leave alone -/

/-- The words of the buffers a command's outputs may store to. -/
def Work.stores : Work → List Loc
  | .decode _ => hardLocs
  | .gjInvert _ _ _ _ => gjLocs ++ whichLocs
  | _ => []

/-! The storage after the outputs of a command, one lemma for each kind of work. -/

@[simp] theorem State.writeOutputs_check_mem (s : State) (n : Nat) : (s.writeOutputs (.check n)).mem = s.mem := (rfl)

@[simp] theorem State.writeOutputs_decode_mem (s : State) (d : Decoder) :
    (s.writeOutputs (.decode d)).mem = (s.writeHard d.result.1).mem := by
  rw [State.writeOutputs, State.setItersRun_mem, State.setScore_mem]

@[simp] theorem State.writeOutputs_crc14_mem (s : State) (n : Nat) (scr : List Bool) :
    (s.writeOutputs (.crc14 n scr)).mem = s.mem := (rfl)

@[simp] theorem State.writeOutputs_gjFailed_mem (s : State) (gr : Nat) (rows : List GjRow) (labels : List Label) :
    (s.writeOutputs (.gjInvert gr rows labels true)).mem = (s.forgetAll (gjLocs ++ whichLocs)).mem := by
  rw [State.writeOutputs, if_pos rfl, State.setGjOk_mem]

@[simp] theorem State.writeOutputs_gjDone_mem (s : State) (gr : Nat) (rows : List GjRow) (labels : List Label) :
    (s.writeOutputs (.gjInvert gr rows labels false)).mem = (s.writeGj rows labels).mem := by
  rw [State.writeOutputs, if_neg (by simp), State.setGjOk_mem]

@[simp] theorem State.writeOutputs_tanh_mem (s : State) (y : F64) : (s.writeOutputs (.tanh y)).mem = s.mem := by
  rw [State.writeOutputs]
  split <;> simp

theorem State.wf_writeOutputs (s : State) (w : Work) (h : s.mem.wf) : (s.writeOutputs w).mem.wf := by
  match w with
  | .check _ => exact h
  | .decode d => rw [State.writeOutputs_decode_mem]; exact s.wf_storeAll _ h
  | .crc14 _ _ => exact h
  | .gjInvert _ rows labels true => rw [State.writeOutputs_gjFailed_mem]; exact s.wf_forgetAll _ h
  | .gjInvert _ rows labels false => rw [State.writeOutputs_gjDone_mem]; exact s.wf_storeAll _ h
  | .tanh _ => rw [State.writeOutputs_tanh_mem]; exact h

/-- The locations `writeGj` stores to. -/
theorem mem_gj_stores {f : Nat → Nat → Word} {g : Nat → Word} {x : Loc × Word}
    (hx : x ∈ ((List.range 174).flatMap fun r => (List.range 6).map fun w => (Loc.gjM r w, f r w)) ++
      (List.range 174).map fun k => (Loc.which k, g k)) : x.1 ∈ gjLocs ++ whichLocs := by
  rcases List.mem_append.mp hx with hx | hx
  · obtain ⟨r, hr, hx⟩ := List.mem_flatMap.mp hx
    obtain ⟨k, hk, rfl⟩ := List.mem_map.mp hx
    exact List.mem_append_left _ (List.mem_flatMap.mpr ⟨r, hr, List.mem_map_of_mem hk⟩)
  · obtain ⟨k, hk, rfl⟩ := List.mem_map.mp hx
    exact List.mem_append_right _ (List.mem_map_of_mem hk)

theorem State.readByte_congr {s t : State} (h : s.mem = t.mem) (a : Nat) : s.readByte a = t.readByte a := by
  rw [State.readByte, State.readByte, h]

/-- Every byte outside the words a command stores to reads as before. -/
theorem State.readByte_writeOutputs (s : State) (w : Work) (a : Nat) (h : ∀ l ∈ w.stores, ¬ l.covers a) :
    (s.writeOutputs w).readByte a = s.readByte a := by
  match w, h with
  | .check n, _ => exact State.readByte_congr (s.writeOutputs_check_mem n) a
  | .decode d, h =>
    refine (State.readByte_congr (s.writeOutputs_decode_mem d) a).trans (s.readByte_storeAll _ a fun w hw => ?_)
    obtain ⟨k, hk, rfl⟩ := List.mem_map.mp hw
    exact h _ (List.mem_map_of_mem hk)
  | .crc14 n scr, _ => exact State.readByte_congr (s.writeOutputs_crc14_mem n scr) a
  | .gjInvert gr rows labels true, h =>
    exact (State.readByte_congr (s.writeOutputs_gjFailed_mem gr rows labels) a).trans
      (s.readByte_forgetAll _ a fun l hl _ => h l hl)
  | .gjInvert gr rows labels false, h =>
    exact (State.readByte_congr (s.writeOutputs_gjDone_mem gr rows labels) a).trans
      (s.readByte_storeAll _ a fun x hx => h x.1 (mem_gj_stores hx))
  | .tanh y, _ => exact State.readByte_congr (s.writeOutputs_tanh_mem y) a

end Sys2Proof.Machine
end

