-- ==== Sys2Proof/Laws/PerInstr.lean ====
section
/-!
SUPPORT. Sys2Proof/Laws/PerInstr.lean: statements made for every command, one lemma per constructor of Instr.
-/
namespace Sys2Proof.Laws.CommandFields

open Sys2Proof Sys2Proof.Machine

/-- A command's word has `RSV` = 0 and an `OPC` that is not reserved (30_encoding.md R131, R133), and it writes
at least one word (10_state.md R82). -/
def Statement (i : Instr) : Prop :=
  rsvOf (encode i) = 0 ∧ 1 ≤ (opcOf (encode i)).toNat ∧ (opcOf (encode i)).toNat ≤ 6 ∧
    outputLocs i ≠ []

theorem rsvOf_commandWord (opc : BitVec 4) (arg : BitVec 16) : rsvOf (commandWord opc arg) = 0 := by
  ext k hk
  simp only [rsvOf, commandWord, ← BitVec.getLsbD_eq_getElem, BitVec.getLsbD_extractLsb', BitVec.getLsbD_append]
  simp [hk, show ¬ 4 + k < 4 by omega]

theorem opcOf_commandWord (opc : BitVec 4) (arg : BitVec 16) : opcOf (commandWord opc arg) = opc := by
  ext k hk
  simp only [opcOf, commandWord, ← BitVec.getLsbD_eq_getElem, BitVec.getLsbD_extractLsb', BitVec.getLsbD_append]
  simp [hk]

theorem argOf_commandWord (opc : BitVec 4) (arg : BitVec 16) : argOf (commandWord opc arg) = arg := by
  ext k hk
  simp only [argOf, commandWord, ← BitVec.getLsbD_eq_getElem, BitVec.getLsbD_extractLsb', BitVec.getLsbD_append]
  simp [hk, show ¬ 16 + k < 4 by omega, show ¬ 16 + k - 4 < 12 by omega, show 16 + k - 4 - 12 = k by omega]

theorem check : Statement .check := by
  simp [Statement, encode, rsvOf_commandWord, opcOf_commandWord, outputLocs]

theorem decodeProb (iters : BitVec 16) : Statement (.decodeProb iters) := by
  simp [Statement, encode, rsvOf_commandWord, opcOf_commandWord, outputLocs]

theorem decodeLlr (iters : BitVec 16) : Statement (.decodeLlr iters) := by
  simp [Statement, encode, rsvOf_commandWord, opcOf_commandWord, outputLocs]

theorem crc14 (n : BitVec 16) : Statement (.crc14 n) := by
  simp [Statement, encode, rsvOf_commandWord, opcOf_commandWord, outputLocs]

theorem gjInvert : Statement .gjInvert := by
  simp [Statement, encode, rsvOf_commandWord, opcOf_commandWord, outputLocs]

theorem tanh : Statement .tanh := by
  simp [Statement, encode, rsvOf_commandWord, opcOf_commandWord, outputLocs]

end Sys2Proof.Laws.CommandFields
end

