-- ==== Sys2Proof/Laws/Step.lean ====
section
/-!
SUPPORT. Sys2Proof/Laws/Step.lean: everything a command, a move of the ENGINE, a host access and a step can do.
-/
namespace Sys2Proof.Machine

/-! ### Commands -/

/-- The work a command ends with, run from `s` to completion. -/
def finalWork (i : Instr) (s : State) : Work :=
  match i with
  | .check => .check (scoreOf s.rom s.hardWord)
  | .decodeProb n => .decode (Decoder.run .prob n.toNat s.rom s.llrs)
  | .decodeLlr n => .decode (Decoder.run .llr n.toNat s.rom s.llrs)
  | .crc14 n => .crc14 n.toNat (crcSweep n.toNat (crcScratch (s.crcMsg n.toNat)))
  | .gjInvert => gjSweep 91 0 ⟨s.gjRows, s.labels⟩
  | .tanh => .tanh (tanhApprox s.tanhX)

theorem exec_eq_acceptCommand (i : Instr) (s : State) :
    exec i s = acceptCommand i (fun s => .next (s.deliver (finalWork i s))) s := by
  cases i <;> rfl

/-- The work depends on the buffers and the tables only. -/
theorem finalWork_congr (i : Instr) {s t : State} (hm : s.mem = t.mem) (hr : s.rom = t.rom) :
    finalWork i s = finalWork i t := by
  cases i <;> simp only [finalWork, hr, State.hardWord_congr hm, State.llrs_congr hm, State.crcMsg_congr hm,
    State.gjRows_congr hm, State.labels_congr hm, State.tanhX_congr hm]

/-- A ready command runs to completion. -/
theorem exec_ready {i : Instr} {s : State} (h : Ready i s) :
    exec i s = .next ((s.accept i).deliver (finalWork i s)) := by
  rw [exec_eq_acceptCommand, acceptCommand_ready h, finalWork_congr i (State.accept_mem s i) (State.accept_rom s i)]

/-- Everything a command can do when it answers a next state. -/
theorem exec_next_cases {i : Instr} {s t : State} (h : exec i s = .next t) :
    (s.busy = true ∧ t = s.raise .busyAccess) ∨
    (s.busy = false ∧ i.wellFormed = false ∧ t = s.raise .badArg) ∨
    (Ready i s ∧ t = (s.accept i).deliver (finalWork i s)) := by
  rcases acceptCommand_cases i (fun s => .next (s.deliver (finalWork i s))) s with
    ⟨hb, he⟩ | ⟨hb, hw, he⟩ | ⟨_, _, l, _, _, he⟩ | ⟨hr, he⟩
  · rw [exec_eq_acceptCommand, he] at h
    cases h
    exact .inl ⟨hb, rfl⟩
  · rw [exec_eq_acceptCommand, he] at h
    cases h
    exact .inr (.inl ⟨hb, hw, rfl⟩)
  · rw [exec_eq_acceptCommand, he] at h
    cases h
  · rw [exec_ready hr] at h
    cases h
    exact .inr (.inr ⟨hr, rfl⟩)

/-- A ready command that is left running. -/
theorem beginCommand_ready {i : Instr} {s : State} (h : Ready i s) :
    beginCommand i s = .next { s.accept i with engine := some ⟨i, .init, startWork i (s.accept i)⟩ } := by
  rw [beginCommand, acceptCommand_ready h]

/-- Everything the beginning of a command can do when it answers a next state. -/
theorem beginCommand_next_cases {i : Instr} {s t : State} (h : beginCommand i s = .next t) :
    (s.busy = true ∧ t = s.raise .busyAccess) ∨
    (s.busy = false ∧ i.wellFormed = false ∧ t = s.raise .badArg) ∨
    (Ready i s ∧ t = { s.accept i with engine := some ⟨i, .init, startWork i (s.accept i)⟩ }) := by
  rcases acceptCommand_cases i (fun s => .next { s with engine := some ⟨i, .init, startWork i s⟩ }) s with
    ⟨hb, he⟩ | ⟨hb, hw, he⟩ | ⟨_, _, l, _, _, he⟩ | ⟨hr, he⟩
  · rw [beginCommand, he] at h
    cases h
    exact .inl ⟨hb, rfl⟩
  · rw [beginCommand, he] at h
    cases h
    exact .inr (.inl ⟨hb, hw, rfl⟩)
  · rw [beginCommand, he] at h
    cases h
  · rw [beginCommand_ready hr] at h
    cases h
    exact .inr (.inr ⟨hr, rfl⟩)

/-! ### The ENGINE -/

theorem State.engineMove_idle {s : State} (h : s.engine = none) : s.engineMove = s := by
  simp [State.engineMove, h]

theorem State.engineMove_finish {s : State} {r : Running} (h : s.engine = some r) (hp : r.phase = .finish) :
    s.engineMove = s.deliver r.work := by
  simp [State.engineMove, h, hp]

theorem State.engineMove_work {s : State} {r : Running} (h : s.engine = some r) (hp : r.phase ≠ .finish) :
    s.engineMove = { s with engine := some (r.advance s) } := by
  simp [State.engineMove, h, hp]

/-- Everything a move of the ENGINE can do. -/
theorem State.engineMove_cases (s : State) :
    (s.engine = none ∧ s.engineMove = s) ∨
    (∃ r, s.engine = some r ∧ r.phase = .finish ∧ s.engineMove = s.deliver r.work) ∨
    (∃ r, s.engine = some r ∧ r.phase ≠ .finish ∧ s.engineMove = { s with engine := some (r.advance s) }) := by
  cases h : s.engine with
  | none => exact .inl ⟨rfl, State.engineMove_idle h⟩
  | some r =>
    by_cases hp : r.phase = .finish
    · exact .inr (.inl ⟨r, rfl, hp, State.engineMove_finish h hp⟩)
    · exact .inr (.inr ⟨r, rfl, hp, State.engineMove_work h hp⟩)

/-! ### The HOST -/

/-- Everything a host read can do when it answers a next state. -/
theorem hostRead_next_cases {off : Offset} {lanes : BitVec 4} {s t : State} (h : hostRead off lanes s = .next t) :
    (target off lanes = none ∧ t = (s.raise .badAccess).answer 0) ∨
    (∃ l, target off lanes = some l ∧ l ∈ s.runningOutputs ∧ t = s.drawn.answer (Config.freeWord s.draws)) ∨
    (∃ l v, target off lanes = some l ∧ l ∉ s.runningOutputs ∧ s.readLoc l = some v ∧ t = s.answer v) := by
  unfold hostRead at h
  split at h
  · next ht => cases h; exact .inl ⟨ht, rfl⟩
  · next l ht =>
    split at h
    · next hc => cases h; exact .inr (.inl ⟨l, ht, by simpa using hc, rfl⟩)
    · next hc =>
      split at h
      · next v hv => cases h; exact .inr (.inr ⟨l, v, ht, by simpa using hc, hv, rfl⟩)
      · cases h

/-- Everything a write to `CMD` can do when it answers a next state. -/
theorem issue_next_cases {v : Word} {prompt : Bool} {s t : State} (h : issue v prompt s = .next t) :
    (s.busy = true ∧ t = s.raise .busyAccess) ∨
    (s.busy = false ∧ (∃ e, decode v = .error e) ∧ t = s.raise .illegalCmd) ∨
    (s.busy = false ∧ ∃ i, decode v = .ok i ∧
      ((prompt = true ∧ exec i s = .next t) ∨ (prompt = false ∧ beginCommand i s = .next t))) := by
  unfold issue at h
  split at h
  · next hb => cases h; exact .inl ⟨hb, rfl⟩
  · next hb =>
    rw [Bool.not_eq_true] at hb
    split at h
    · next e he => cases h; exact .inr (.inl ⟨hb, ⟨e, he⟩, rfl⟩)
    · next i hi =>
      split at h
      · next hp => exact .inr (.inr ⟨hb, i, hi, .inl ⟨hp, h⟩⟩)
      · next hp => exact .inr (.inr ⟨hb, i, hi, .inr ⟨by simpa using hp, h⟩⟩)

/-- A buffer word a host may write: mapped, not read-only, none of the control registers. -/
def Loc.isBuffer : Loc → Bool
  | .tanhX _ | .hard _ | .crcMsg _ | .llr _ _ | .which _ | .gjM _ _ => true
  | _ => false

/-- Everything a host write can do when it answers a next state. -/
theorem hostWrite_next_cases {off : Offset} {lanes : BitVec 4} {v : Word} {prompt : Bool} {s t : State}
    (h : hostWrite off lanes v prompt s = .next t) :
    ((target off lanes = none ∨ ∃ l, target off lanes = some l ∧ l.readOnly = true) ∧ t = s.raise .badAccess) ∨
    (target off lanes = some .ctrl ∧ t = s.writeCtrl v) ∨
    (target off lanes = some .status ∧ t = s.clearStatus v) ∨
    (target off lanes = some .cmd ∧ issue v prompt s = .next t) ∨
    (∃ l, target off lanes = some l ∧ l.isBuffer = true ∧ t = s.writeBuffer l v) := by
  unfold hostWrite at h
  split at h
  · next ht => cases h; exact .inl ⟨.inl ht, rfl⟩
  · next l ht =>
    split at h
    · next hr => cases h; exact .inl ⟨.inr ⟨l, ht, hr⟩, rfl⟩
    · next hr =>
      cases l <;> simp only [Loc.readOnly, not_true_eq_false] at hr
      case ctrl => cases h; exact .inr (.inl ⟨ht, rfl⟩)
      case status => cases h; exact .inr (.inr (.inl ⟨ht, rfl⟩))
      case cmd => exact .inr (.inr (.inr (.inl ⟨ht, h⟩)))
      all_goals
        cases h
        exact .inr (.inr (.inr (.inr ⟨_, ht, rfl, rfl⟩)))

/-! ### A step -/

/-- Everything a step can do when it answers a next state. -/
theorem step_next_cases {s t : State} (h : step s = .next t) :
    (s.turns = [] ∧ t = s.engineMove) ∨
    ∃ rest, (∃ a p, s.turns = .host a p :: rest ∧ s.rst = false ∧
        hostAccess a p { s with turns := rest } = .next t) ∨
      (s.turns = .engine :: rest ∧ t = State.engineMove { s with turns := rest }) ∨
      (s.turns = .assertRst :: rest ∧ t = { State.hardReset { s with turns := rest } with rst := true }) ∨
      (s.turns = .releaseRst :: rest ∧ t = { s with turns := rest, rst := false }) := by
  unfold step takeTurn at h
  split at h
  · next ht => cases h; exact .inl ⟨ht, rfl⟩
  · next turn rest ht =>
    refine .inr ⟨rest, ?_⟩
    unfold perform at h
    cases turn with
    | host a p =>
      dsimp only at h
      split at h
      · cases h
      · next hr => exact .inl ⟨a, p, ht, by simpa using hr, h⟩
    | engine => cases h; exact .inr (.inl ⟨ht, rfl⟩)
    | assertRst => cases h; exact .inr (.inr (.inl ⟨ht, rfl⟩))
    | releaseRst => cases h; exact .inr (.inr (.inr ⟨ht, rfl⟩))

end Sys2Proof.Machine
end

