-- ==== Sys2Proof/Tests/Slice0.lean ====
section
/-!
SUPPORT. Sys2Proof/Tests/Slice0.lean: tests with results taken from spec/ (mostly 95_test_vectors.md), and for each statement
of Obligations.lean with hypotheses a witness that they can all be met. Tests are on the sample tables (log 5), where a
result depends on tables at all.
-/
namespace Sys2Proof.Tests
open Sys2Proof.Machine

/-! ### Helpers -/

/-- The sample tables. -/
def sample : Tables := {}

/-- The block after reset, on the sample tables. -/
def quiet : State := { State.reset with rom := sample }

/-- Whether a next state is answered, and one with a property. -/
def answers (p : State → Bool) : Host.Outcome State Fault Refusal → Bool
  | .next t => p t
  | .fault _ => false
  | .refused _ => false

/-- Whether the machine stops with a given fault. -/
def stops (f : Fault) : Host.Outcome State Fault Refusal → Bool
  | .next _ => false
  | .fault g => f == g
  | .refused _ => false

/-- Every buffer word written with 0. -/
def filled : State := quiet.storeAll (bufferLocs.map fun l => (l, 0))

/-- Every LLR written with `x`. -/
def llrWord (x : F64) : Loc → Word
  | .llr _ high => wordOf64 x high
  | _ => 0

def withLlrs (x : F64) : State := quiet.storeAll (llrLocs.map fun l => (l, llrWord x l))

def ten : F64 := ⟨0x4024000000000000#64⟩

/-- A state with CHECK just accepted. -/
def startCheck (s : State) : State := { s with cmd := encode .check, engine := some ⟨.check, .init, .check 0⟩ }

theorem startCheck_mem (s : State) : (startCheck s).mem = s.mem := (rfl)
theorem startCheck_cmd (s : State) : (startCheck s).cmd = encode .check := (rfl)
theorem startCheck_done (s : State) : (startCheck s).done = s.done := (rfl)
theorem startCheck_turns (s : State) : (startCheck s).turns = s.turns := (rfl)
theorem startCheck_engine (s : State) : (startCheck s).engine = some ⟨.check, .init, .check 0⟩ := (rfl)

/-- CHECK running on `HARD` of zeros. -/
def checking : State := startCheck filled

/-! ### Well-formedness (30_encoding.md R137) -/

theorem test_crc14_longest : (Instr.crc14 256).wellFormed = true := by decide

theorem test_crc14_too_long : (Instr.crc14 257).wellFormed = false := by decide

theorem test_decode_any_budget : (Instr.decodeProb 65535).wellFormed = true ∧ (Instr.decodeLlr 0).wellFormed = true := by
  decide

/-! ### Decoding: words written out from 30_encoding.md R131 to R136, and 95_test_vectors.md 2.1 -/

theorem test_decode_check : decode 0b0000000000000000_000000000000_0001 = .ok .check := by decide

theorem test_decode_prob : decode 0b0000000000000101_000000000000_0010 = .ok (.decodeProb 5) := by decide

theorem test_decode_llr : decode 0b1111111111111111_000000000000_0011 = .ok (.decodeLlr 65535) := by decide

theorem test_decode_crc14 : decode 0b0000000001001101_000000000000_0100 = .ok (.crc14 77) := by decide

theorem test_decode_gj_invert : decode 0b0000000000000000_000000000000_0101 = .ok .gjInvert := by decide

theorem test_decode_tanh : decode 0b0000000000000000_000000000000_0110 = .ok .tanh := by decide

theorem test_encode_crc14 : encode (.crc14 256) = 0x01000004 := by decide

/-- EN10, EN11, EN13, EN14, EN17. -/
theorem test_decode_refuses :
    decode 0x00000000 = .error .reservedOpc ∧ decode 0x00000007 = .error .reservedOpc ∧
      decode 0x00000011 = .error .reservedBits ∧ decode 0x00010001 = .error .strayArg ∧
      decode 0x01010014 = .error .reservedBits := by decide

/-- The bytes of a word lie little-endian (20_memory.md R102). -/
theorem test_decode_bytes : decodeBytes [0x04, 0x00, 0x4D, 0x00, 0xFF] = .ok (.crc14 77, [0xFF]) := by decide

theorem test_decode_short : decodeBytes [0x01, 0x00, 0x00] = .error .tooShort := by decide

theorem test_decode_table_word : decodeTableWord 16 0x0001 = some .check ∧ decodeTableWord 32 0x004D0004 = some (.crc14 77) := by
  decide

/-! ### The commands (95_test_vectors.md 2.2 to 2.9) -/

/-- CK4: bit 173 only. -/
theorem test_check_single_bit : answers (·.score == 80) (exec .check (quiet.storeAll
    [(.hard 0, 0), (.hard 1, 0), (.hard 2, 0), (.hard 3, 0), (.hard 4, 0), (.hard 5, 0x00002000)])) = true := by
  decide +kernel

/-- CK9: all ones, the reserved bits of `HARD[5]` written 1. -/
theorem test_check_all_ones : answers (fun t => t.score == 59 && t.readLoc (.hard 5) == some 0x00003FFF)
    (exec .check (quiet.storeAll ((List.range 6).map fun w => (.hard w, 0xFFFFFFFF)))) = true := by decide +kernel

/-- HD_PROB of 42_decode_prob.md by the rows of 2.3: `P` = 0.9 with 0.2, 0.3, 0.4 decides 1. -/
theorem test_guarded_ratio : guardedRatio ((F64.one, F64.zero)) = F64.one ∧
    (guardedRatio ((F64.half, F64.half))).le F64.half = true := by decide +kernel

/-- The guard: 0/0 is exactly 1.0 (42_decode_prob.md R205). -/
theorem test_guard_zero_zero : guardedRatio ((⟨0x8000000000000000#64⟩, F64.zero)) = F64.one := by decide

/-- 2.5, first row of HD_LLR: 10.0 + 7.6 - 7.6 + 5.0 = 15.000000000000002. -/
theorem test_llr_sum : (((ten.add F64.c7_6).add F64.c7_6.neg).add ⟨0x4014000000000000#64⟩).bits =
    0x402E000000000001#64 := by decide

/-- 2.5, 10.0 × 5: the product is above 0.999, so the message is 7.6. -/
theorem test_clamp : clampedLog ((List.replicate 5 (tanhApprox (ten.div F64.two))).foldl F64.mul F64.one) = F64.c7_6 := by
  decide +kernel

/-- CR3. -/
theorem test_crc14_last_bit : answers (·.crcOut == 0x2757) (exec (.crc14 77)
    (quiet.storeAll [(.crcMsg 0, 0), (.crcMsg 1, 0), (.crcMsg 2, 0x00001000)])) = true := by decide +kernel

/-- CR12, read as a host reads it. -/
theorem test_crc14_first_bit : answers (fun t => t.readLoc .crcOut == some 0x000013E2) (exec (.crc14 14)
    (quiet.storeAll [(.crcMsg 0, 0x00000001)])) = true := by decide +kernel

/-- Pivot row 0 of a matrix with rows `e_1`, `e_0`, `e_0 + e_1`, worked by hand from 46_gauss_jordan.md R274: rows 0 and 1
change places with their labels, column 91 of row 0 is toggled, row 2 is cleared in column 0. -/
theorem test_gj_step : (Gj.mk [0b10, 0b01, 0b11] [7, 8, 9]).step 0 =
    some ⟨[BitVec.twoPow 182 0 ^^^ BitVec.twoPow 182 91, 0b10, 0b10 ^^^ BitVec.twoPow 182 91], [8, 7, 9]⟩ := by
  decide +kernel

/-- The search for a pivot includes row 173 (46_gauss_jordan.md R274, C11). -/
theorem test_gj_last_row : (Gj.mk (List.replicate 173 0 ++ [1]) []).findPivot 0 = some 173 := by decide +kernel

/-- TH6: -5.0. -/
theorem test_tanh_minus_five : answers (·.tanhY == ⟨0xBFF0000A3A7A1997#64⟩) (exec .tanh
    (quiet.storeAll [(.tanhX false, 0), (.tanhX true, 0xC0140000)])) = true := by decide +kernel

/-- TH8: the next value above 7.6 saturates. -/
theorem test_tanh_saturates : answers (fun t => t.readLoc (.tanhY true) == some 0x3FEFF7CE &&
    t.readLoc (.tanhY false) == some 0xD916872B) (exec .tanh
    (quiet.storeAll [(.tanhX false, 0x66666667), (.tanhX true, 0x401E6666)])) = true := by decide +kernel

/-! ### Status, errors, interrupt and reset (95_test_vectors.md 2.10, 2.11) -/

/-- ST4 and ST5: the first error is kept. -/
theorem test_first_error : answers (fun t => t.statusWord == 0x00000016 && answers (·.statusWord == 0x00000016)
    (hostWrite 0x0010 0xF 0x01010004 true t)) (hostWrite 0x0010 0xF 0x00000007 true { quiet with done := true }) = true := by
  decide +kernel

/-- ST6: a read of an unmapped word returns 0. -/
theorem test_unmapped_read : answers (fun t => t.statusWord == 0x00000044 && t.reads == [0])
    (hostRead 0x0024 0xF quiet) = true := by decide +kernel

/-- ST7: a write to a read-only word. -/
theorem test_read_only_write : answers (·.statusWord == 0x00000044) (hostWrite 0x0000 0xF 0x12345678 true quiet) = true := by
  decide +kernel

/-- ST10: a buffer write while a command runs. -/
theorem test_busy_write : answers (·.statusWord == 0x00000035)
    (hostWrite 0x0800 0xF 0 true { quiet with engine := some ⟨.check, .init, .check 0⟩ }) = true := by
  decide +kernel

/-- ST12: soft reset. -/
theorem test_soft_reset : answers (fun t => t.statusWord == 0 && t.ctrlWord == 0 && !t.irq)
    (hostWrite 0x0008 0xF 0x00000002 true { quiet with ie := true, done := true, err := some .illegalCmd }) = true := by
  decide +kernel

/-- RS4: a buffer word nobody wrote holds no value. -/
theorem test_unwritten_read : stops (.unwrittenRead 0x0800) (hostRead 0x0800 0xF quiet) = true := by decide +kernel

/-- A command word written to `CMD` with nothing in the buffers (93_implementation_defined.md U22). -/
theorem test_unwritten_input : stops (.unwrittenInput 0x0028) (step (quiet.withFetchWord 32 0x00000006)) = true := by
  decide +kernel

/-- CRC14 of no bits reads no word, and runs from reset (95_test_vectors.md CR1). -/
theorem test_first_command : answers (fun t => t.crcOut == 0 && t.statusWord == 0x00000002 && t.cmd == 0x00000004)
    (step (quiet.withFetchWord 32 0x00000004)) = true := by decide +kernel

/-! ### States for the witnesses -/

theorem filled_word {l : Loc} (h : l ∈ bufferLocs) : filled.mem.readWord l.offset = some (0 &&& l.mask) := by
  refine State.readWord_storeAll_same _ _ l 0 ?_ (List.mem_map.mpr ⟨l, h, rfl⟩)
  rw [List.map_map]
  exact bufferLocs_offsets_rise.imp fun h => Nat.ne_of_lt h

theorem filled_idle : filled.busy = false := by rw [State.busy, filled, State.storeAll_engine]; rfl

/-- Every well-formed command is ready where every buffer word is written. -/
theorem test_ready (i : Instr) (h : i.wellFormed = true) : Ready i filled :=
  ⟨filled_idle, h, fun l hl => by rw [State.written, filled_word (inputLocs_subset_bufferLocs h hl)]; rfl⟩

theorem llrLocs_sublist : llrLocs.Sublist bufferLocs :=
  ((List.sublist_append_right _ _).trans (List.sublist_append_left _ _)).trans (List.sublist_append_left _ _)

theorem llr_offsets_nodup (v : Loc → Word) : ((llrLocs.map fun l => (l, v l)).map fun w => w.1.offset).Nodup := by
  rw [List.map_map]
  exact (bufferLocs_offsets_rise.sublist (llrLocs_sublist.map _)).imp fun h => Nat.ne_of_lt h

theorem mem_llrLocs (i : Nat) (high : Bool) (h : i < 174) : Loc.llr i high ∈ llrLocs := by
  cases high <;> simp [llrLocs, h]

theorem withLlrs_word (x : F64) (i : Nat) (high : Bool) (h : i < 174) :
    (withLlrs x).mem.readWord (Loc.llr i high).offset = some (wordOf64 x high &&& (Loc.llr i high).mask) :=
  State.readWord_storeAll_same _ _ (.llr i high) _ (llr_offsets_nodup _)
    (List.mem_map.mpr ⟨.llr i high, mem_llrLocs i high h, rfl⟩)

theorem withLlrs_rom (x : F64) : (withLlrs x).rom = sample := by rw [withLlrs, State.storeAll_rom]; rfl

theorem test_ready_decode (x : F64) (dom : Domain) (iters : BitVec 16) : Ready (decodeInstr dom iters) (withLlrs x) := by
  refine ⟨by rw [State.busy, withLlrs, State.storeAll_engine]; rfl, by cases dom <;> rfl, fun l hl => ?_⟩
  have hl : l ∈ llrLocs := by cases dom <;> exact hl
  obtain ⟨i, hi, hl⟩ := List.mem_flatMap.mp hl
  have hi := List.mem_range.mp hi
  rcases List.mem_pair.mp hl with rfl | rfl <;> rw [State.written, withLlrs_word _ _ _ hi] <;> rfl

theorem withLlrs_llr (x : F64) (i : Nat) (h : i < 174) : (withLlrs x).llr i = x := by
  have hm : ∀ high, (Loc.llr i high).mask = BitVec.allOnes 32 := fun _ => rfl
  rw [State.llr, State.word, State.word, withLlrs_word x i true h, withLlrs_word x i false h, Option.getD_some,
    Option.getD_some, hm, hm, BitVec.and_allOnes, BitVec.and_allOnes]
  obtain ⟨b⟩ := x
  simp only [wordOf64, if_true, Bool.false_eq_true, if_false, F64.mk.injEq]
  ext k hk
  rw [← BitVec.getLsbD_eq_getElem, ← BitVec.getLsbD_eq_getElem, BitVec.getLsbD_append, BitVec.getLsbD_extractLsb',
    BitVec.getLsbD_extractLsb']
  split_ifs with h
  · simp [h]
  · simp [show k - 32 < 32 by omega, show 32 + (k - 32) = k by omega]

theorem withLlrs_llrs (x : F64) : (withLlrs x).llrs = List.replicate 174 x := by
  rw [State.llrs, List.map_congr_left fun i hi => withLlrs_llr x i (List.mem_range.mp hi)]
  simp

/-- NaNs in, the zero word out: no sum of a NaN is at most 0 (43_decode_llr.md R223). -/
theorem hdLlr_nan (t : Tables) (e : List (List F64)) (i : Nat) (h : i < 174) :
    hdLlr t (List.replicate 174 F64.nan) e i = false := by
  have hadd : ∀ y, F64.nan.add y = F64.nan := fun y => rfl
  have hsum : ∀ l : List Nat, llrSum t F64.nan e i l = F64.nan := by
    intro l
    induction l with
    | nil => rfl
    | cons j l ih => rw [llrSum, List.foldl_cons, hadd]; exact ih
  rw [hdLlr, List.getD_replicate _ h, hsum]
  rfl

theorem zero_word_score : scoreOf sample 0 = 83 := by decide +kernel

theorem decide_nan (d : Decoder) (hd : d.dom = .llr) (hl : d.lc = List.replicate 174 F64.nan) (t : Tables) (i : Nat)
    (h : i < 174) : d.decide t i = false := by
  unfold Decoder.decide
  rw [hd, hl]
  exact hdLlr_nan t _ i h

theorem nan_iteration_scores : scoreOf sample (hardDecisionAt .llr sample (withLlrs F64.nan).llrs 1) = 83 := by
  have : hardDecisionAt .llr sample (withLlrs F64.nan).llrs 1 = 0 := by
    rw [withLlrs_llrs]
    apply BitVec.eq_of_getLsbD_eq
    intro i hi
    rw [hardDecisionAt, Function.iterate_one, plainIteration, Decoder.variableUpdate, Decoder.hardDecision,
      getLsbD_bitsLE, decide_nan _ rfl rfl _ _ hi, Bool.and_false]
    simp
  rw [this, zero_word_score]

/-- DecodeOutcome, first clause: iteration 1, the last of a budget of 1, is the first to score 83. -/
theorem test_first_iteration_scores : Ready (decodeInstr .llr 1) (withLlrs F64.nan) ∧ 1 ≤ (1 : BitVec 16).toNat ∧
    scoreOf (withLlrs F64.nan).rom (hardDecisionAt .llr (withLlrs F64.nan).rom (withLlrs F64.nan).llrs 1) = 83 ∧
    ∀ k', 1 ≤ k' → k' < 1 → False := by
  refine ⟨test_ready_decode _ _ _, by decide, ?_, fun k' h h' => by omega⟩
  rw [withLlrs_rom]
  exact nan_iteration_scores

def idRows : List GjRow := (List.range 174).map fun r => if r < 91 then BitVec.twoPow 182 r else 0
def idLabels : List Label := (List.range 174).map (BitVec.ofNat 8)
/-- The identity above zero rows, labels in order (95_test_vectors.md GJ1). -/
def identity : State := quiet.writeGj idRows idLabels

/-- A sweep over a matrix that starts as the identity finds every pivot. -/
theorem gjSweep_identity (n r : Nat) (g : Gj) (hn : r + n = 91) (hl : g.rows.length = 174)
    (hid : ∀ k < 91, ∀ c < 91, (g.row k).getLsbD c = decide (c = k)) :
    ∃ gr rows labels, gjSweep n r g = .gjInvert gr rows labels false := by
  induction n generalizing r g with
  | zero => exact ⟨_, _, _, rfl⟩
  | succ n ih =>
    have hr : g.bit r r = true := by rw [Gj.bit, hid r (by omega) r (by omega)]; simp
    have hs : g.step r = some ((g.toggle r).eliminate r) := by simp [Gj.step, Gj.pivot, hr]
    simp only [gjSweep, hs]
    refine ih _ _ (by omega) (by simp [Gj.eliminate, Gj.toggle, hl]) fun k hk c hc => ?_
    have ht : ∀ k < 174, (g.toggle r).row k = if k = r then g.row r ^^^ BitVec.twoPow 182 (91 + r) else g.row k := by
      intro k hk
      simp only [Gj.toggle, Gj.row]
      rw [List.getD_eq_getElem _ _ (by simpa [hl] using hk), List.getElem_set]
      split_ifs with h1 h2 h2
      · rfl
      · omega
      · omega
      · exact (List.getD_eq_getElem _ _ _).symm
    have he : ((g.toggle r).eliminate r).row k =
        if k ≠ r ∧ ((g.toggle r).row k).getLsbD r then (g.toggle r).row k ^^^ (g.toggle r).row r else (g.toggle r).row k := by
      have hlen : (g.toggle r).rows.length = 174 := by simp [Gj.toggle, hl]
      simp only [Gj.eliminate]
      rw [Gj.row, List.getD_eq_getElem _ _ (by simp [hlen]; omega), List.getElem_mapIdx]
      simp only [Gj.row, List.getD_eq_getElem (l := (g.toggle r).rows) (d := 0) (n := k) (by omega)]
    have h2 : ∀ k < 91, ∀ c < 91, ((g.toggle r).row k).getLsbD c = decide (c = k) := by
      intro k hk c hc
      rw [ht k (by omega)]
      split_ifs with h
      · subst h
        rw [BitVec.getLsbD_xor, hid k hk c hc, BitVec.getLsbD_twoPow]
        simp [show ¬ 91 + k = c by omega]
      · exact hid k hk c hc
    rw [he, if_neg, h2 k hk c hc]
    rintro ⟨h3, h4⟩
    rw [h2 k hk r (by omega)] at h4
    simp at h4
    omega

theorem identity_gjRow (r : Nat) (h : r < 174) : identity.gjRow r = idRows.getD r 0 := State.gjRow_writeGj _ _ _ _ h

theorem idRows_getD (r : Nat) (h : r < 174) : idRows.getD r 0 = if r < 91 then BitVec.twoPow 182 r else 0 := by
  simp [idRows, h]

theorem identity_ready : Ready .gjInvert identity := by
  refine ⟨by rw [State.busy, identity, State.writeGj_engine]; rfl, rfl, fun l hl => ?_⟩
  rcases List.mem_append.mp hl with h | h
  · obtain ⟨r, hr, hl⟩ := List.mem_flatMap.mp h
    obtain ⟨w, hw, rfl⟩ := List.mem_map.mp hl
    rw [State.written, identity, State.readWord_writeGj_row _ _ _ _ _ (List.mem_range.mp hr) (List.mem_range.mp hw)]
    rfl
  · obtain ⟨k, hk, rfl⟩ := List.mem_map.mp h
    rw [State.written, identity, State.readWord_writeGj_which _ _ _ _ (List.mem_range.mp hk)]
    rfl

theorem identity_succeeds : ∃ t, exec .gjInvert identity = .next t ∧ t.gjOk = true := by
  refine ⟨_, exec_ready identity_ready, ?_⟩
  obtain ⟨gr, rows, labels, h⟩ := gjSweep_identity 91 0 ⟨idRows, idLabels⟩ rfl rfl fun k hk c hc => by
    rw [Gj.row, idRows_getD k (by omega), if_pos hk, BitVec.getLsbD_twoPow]
    simp [show k < 182 by omega, eq_comm]
  have hw : finalWork .gjInvert identity = .gjInvert gr rows labels false := by
    rw [finalWork, identity, State.gjRows_writeGj _ _ _ (by simp [idRows]), State.labels_writeGj _ _ _ (by simp [idLabels]), h]
  rw [hw, State.deliver, State.complete_gjOk, State.writeOutputs, if_neg Bool.false_ne_true, State.setGjOk_gjOk]

theorem identity_precondition :
    (∀ k < 174, ∀ q < 91, (identity.gjRow k).getLsbD (91 + q) = false) ∧ identity.labels.Nodup := by
  constructor
  · intro k hk q hq
    rw [identity_gjRow k hk, idRows_getD k hk]
    split_ifs with h
    · rw [BitVec.getLsbD_twoPow]; simp; omega
    · simp
  · rw [identity, State.labels_writeGj _ _ _ (by simp [idLabels])]
    decide +kernel

/-- GjInverts, GjPermutesLabels: a success (95_test_vectors.md GJ1) with a zero right part and distinct labels. -/
theorem test_identity : Ready .gjInvert identity ∧ (∃ t, exec .gjInvert identity = .next t ∧ t.gjOk = true) ∧
    (∀ k < 174, ∀ q < 91, (identity.gjRow k).getLsbD (91 + q) = false) ∧ identity.labels.Nodup :=
  ⟨identity_ready, identity_succeeds, identity_precondition⟩

/-- GjZeroColumnFails. -/
theorem test_zero_column : Ready .gjInvert filled ∧
    ∀ k < 174, (filled.gjRow k).getLsbD 0 = false ∧ (filled.gjRow k).getLsbD 90 = false := by
  refine ⟨test_ready .gjInvert rfl, fun k hk => ?_⟩
  have h : ∀ c < 182, (filled.gjRow k).getLsbD c = false := by
    intro c hc
    have hm : Loc.gjM k (c / 32) ∈ bufferLocs := List.mem_append_right _ (List.mem_flatMap.mpr
      ⟨k, List.mem_range.mpr hk, List.mem_map.mpr ⟨c / 32, List.mem_range.mpr (by omega), rfl⟩⟩)
    rw [State.getLsbD_gjRow _ _ _ hc, State.word, filled_word hm]
    simp
  exact ⟨h 0 (by omega), h 90 (by omega)⟩

/-- CheckAfterDecode: a decode, of NaNs with no budget, that reports 83. -/
theorem test_decode_reports_83 : Ready (decodeInstr .llr 0) (withLlrs F64.nan) ∧
    ∃ t, exec (decodeInstr .llr 0) (withLlrs F64.nan) = .next t ∧ t.score = 83 := by
  have hr := test_ready_decode F64.nan .llr 0
  refine ⟨hr, _, exec_ready hr, ?_⟩
  have hs : signDecode (List.replicate 174 F64.nan) = 0 := by
    apply BitVec.eq_of_getLsbD_eq
    intro i hi
    rw [signDecode, getLsbD_bitsLE, List.getD_replicate _ hi]
    simp [show F64.nan.le F64.zero = false from rfl]
  have hw : finalWork (decodeInstr .llr 0) (withLlrs F64.nan) =
      .decode ((Decoder.start .llr 0 (List.replicate 174 F64.nan)).init sample) := by
    rw [decodeInstr, finalWork, withLlrs_llrs, withLlrs_rom]
    rfl
  have hb : ((Decoder.start .llr 0 (List.replicate 174 F64.nan)).init sample).bestScore = 83 := by
    rw [Decoder.init, Decoder.start]
    simp only [hs, zero_word_score]
  rw [hw]
  simp only [State.deliver, State.complete_score, State.writeOutputs, State.setItersRun_score, State.setScore_score,
    Decoder.result, hb]
  rfl

/-! ### Witnesses for the other statements -/

/-- IllegalWordRefused: an idle block and a word for each clause, at the edges of its range. -/
theorem test_illegal_words : quiet.busy = false ∧
    (0x0000000F : Word).toNat % 16 = 15 ∧ (0x00000007 : Word).toNat % 16 = 7 ∧ (0x00010000 : Word).toNat % 16 = 0 ∧
    (0x0000FFF2 : Word).toNat / 16 % 4096 ≠ 0 ∧ (0x00000012 : Word).toNat / 16 % 4096 ≠ 0 ∧
    ((0x00010001 : Word).toNat % 16 = 1 ∧ (0x00010001 : Word).toNat / 65536 ≠ 0) ∧
    ((0xFFFF0005 : Word).toNat % 16 = 5 ∧ (0xFFFF0005 : Word).toNat / 65536 ≠ 0) ∧
    ((0x80000006 : Word).toNat % 16 = 6 ∧ (0x80000006 : Word).toNat / 65536 ≠ 0) := by decide +kernel

/-- LongCrcRefused: lengths 257 and 65535. -/
theorem test_long_crc_words : (0x01010004 : Word).toNat % 16 = 4 ∧ (0x01010004 : Word).toNat / 16 % 4096 = 0 ∧
    256 < (0x01010004 : Word).toNat / 65536 ∧ (0xFFFF0004 : Word).toNat % 16 = 4 ∧
    (0xFFFF0004 : Word).toNat / 16 % 4096 = 0 ∧ 256 < (0xFFFF0004 : Word).toNat / 65536 := by decide

/-- BusyWriteRefused, ErrorPriority, CommandTurnedAway, BusyReads, RunningCommandCompletes, SoftReset: a running command, and
the first and last buffer word. -/
theorem test_running : checking.busy = true ∧ checking.turns = [] ∧
    checking.engine = some ⟨.check, .init, .check 0⟩ ∧ Loc.tanhX false ∈ bufferLocs ∧ Loc.gjM 173 5 ∈ bufferLocs := by
  refine ⟨by rw [State.busy, checking, startCheck_engine]; rfl, ?_, by rw [checking, startCheck_engine], by decide +kernel, by decide +kernel⟩
  rw [checking, startCheck_turns, filled, State.storeAll_turns]
  rfl

/-- BusyReads: a word the running CHECK writes, and one it does not, which holds a value. -/
theorem test_running_outputs : checking.engine = some ⟨.check, .init, .check 0⟩ ∧ Loc.score ∈ outputLocs .check ∧ Loc.score ∈ windowLocs ∧
    Loc.hard 5 ∉ outputLocs .check ∧ Loc.hard 5 ∈ windowLocs ∧ checking.readLoc (.hard 5) = some 0 := by
  refine ⟨test_running.2.2.1, by decide, by decide +kernel, by decide, by decide +kernel, ?_⟩
  rw [State.readLoc, checking, startCheck_mem, filled_word (by decide +kernel)]
  decide

/-- WorkIsHidden: the first move of CHECK leaves it running. -/
theorem test_first_move_runs : checking.engineMove.busy = true := by
  rw [checking, State.engineMove_work (r := ⟨.check, .init, .check 0⟩) (startCheck_engine _) (by decide)]
  rfl

/-- CommandTurnedAway: a word of `HARD` that nobody wrote; a CRC14 that is too long. -/
theorem test_turned_away : quiet.busy = false ∧ (Instr.crc14 257).wellFormed = false ∧ Instr.check.wellFormed = true ∧
    Loc.hard 0 ∈ inputLocs .check ∧ quiet.written (.hard 0) = false := by decide +kernel

/-- StepRunsDecodedCommand: a command word as the next turn, and a table word that decodes. -/
theorem test_turn_decodes : (quiet.present 0x004D0004).turns = .host (.write 0x0010 0xF 0x004D0004) true :: [] ∧
    (quiet.present 0x004D0004).rst = false ∧ (quiet.present 0x004D0004).busy = false ∧
    decode 0x004D0004 = .ok (.crc14 77) ∧ decodeTableWord 16 4 = some (.crc14 0) := by decide +kernel

/-- CheckWritesScore, GjRunsSweep, GjFrame: the words read where every buffer word is 0. -/
theorem test_words_read : filled.busy = false ∧ (∀ w < 6, filled.readLoc (.hard w) = some 0) := by
  refine ⟨filled_idle, fun w hw => ?_⟩
  have hm : Loc.hard w ∈ bufferLocs := inputLocs_subset_bufferLocs (i := .check) rfl
    (List.mem_map.mpr ⟨w, List.mem_range.mpr hw, rfl⟩)
  exact (filled_word hm).trans (by simp)

/-- CrcWritesResult: no bits, and the longest message. -/
theorem test_crc_words_read : filled.busy = false ∧ (0 : BitVec 16).toNat ≤ 256 ∧ (256 : BitVec 16).toNat ≤ 256 ∧
    ∀ w < ((256 : BitVec 16).toNat + 31) / 32, filled.readLoc (.crcMsg w) = some 0 := by
  refine ⟨filled_idle, by decide, by decide, fun w hw => ?_⟩
  have hm : Loc.crcMsg w ∈ bufferLocs := inputLocs_subset_bufferLocs (i := .crc14 256) rfl
    (List.mem_map.mpr ⟨w, List.mem_range.mpr hw, rfl⟩)
  exact (filled_word hm).trans (by simp [Loc.mask])

/-- The block with `TANH_X` written. -/
def tanhInput (hi lo : Word) : State := quiet.storeAll [(.tanhX true, hi), (.tanhX false, lo)]

/-- TanhWritesResult: an input with a NaN for its result, and an infinity. -/
theorem test_tanh_words_read :
    ((tanhInput 0x7FF80000 0).busy = false ∧ (tanhInput 0x7FF80000 0).readLoc (.tanhX true) = some 0x7FF80000 ∧
      (tanhInput 0x7FF80000 0).readLoc (.tanhX false) = some 0 ∧ (tanhApprox ⟨0x7FF80000#32 ++ 0#32⟩).isNaN = true) ∧
    ((tanhInput 0x7FF00000 0).busy = false ∧ (tanhInput 0x7FF00000 0).readLoc (.tanhX true) = some 0x7FF00000 ∧
      (tanhInput 0x7FF00000 0).readLoc (.tanhX false) = some 0 ∧ (tanhApprox ⟨0x7FF00000#32 ++ 0#32⟩).isNaN = false) := by
  decide +kernel

/-- TablesConstant: a step, and the edges of the tables. -/
theorem test_step_of_reset : step State.reset = .next State.reset ∧ sample.nm.length = 83 ∧ sample.mn.length = 174 := by
  refine ⟨rfl, by decide +kernel, by decide +kernel⟩

/-- DecodeOutcome, second clause at a budget of 0. -/
theorem test_no_iteration : Ready (decodeInstr .prob 0) (withLlrs ten) ∧
    ∀ k, 1 ≤ k → k ≤ (0 : BitVec 16).toNat → False :=
  ⟨test_ready_decode _ _ _, fun k h h' => by have : (0 : BitVec 16).toNat = 0 := rfl; omega⟩

/-- AllTensDecodeToZero: the smallest positive budget. -/
theorem test_tens : Ready (.decodeLlr 1) (withLlrs ten) ∧ (1 : BitVec 16) ≠ 0 ∧
    ∀ i < 174, (withLlrs ten).llr i = ⟨0x4024000000000000#64⟩ :=
  ⟨test_ready_decode ten .llr 1, by decide, fun i hi => withLlrs_llr ten i hi⟩

/-- DecodeDeterministic: two states that differ, with the same LLRs. -/
theorem test_same_llrs : Ready (.decodeLlr 7) (withLlrs ten) ∧
    Ready (.decodeLlr 7) ((withLlrs ten).raise .badAccess) ∧ (withLlrs ten).rom = ((withLlrs ten).raise .badAccess).rom ∧
    (∀ l ∈ llrLocs, (withLlrs ten).readLoc l = ((withLlrs ten).raise .badAccess).readLoc l) ∧
    (withLlrs ten).errFlag ≠ ((withLlrs ten).raise .badAccess).errFlag := by
  have hr := test_ready_decode ten .llr 7
  refine ⟨hr, ⟨?_, rfl, ?_⟩, (State.raise_rom _ _).symm, fun l hl => ?_, ?_⟩
  · rw [State.busy, State.raise_engine]; exact hr.1
  · intro l hl
    rw [State.written, State.raise_mem]
    exact hr.2.2 l hl
  · obtain ⟨i, _, hl⟩ := List.mem_flatMap.mp hl
    rcases List.mem_pair.mp hl with rfl | rfl <;> simp only [State.readLoc, State.raise_mem]
  · rw [State.errFlag, State.errFlag, State.raise_err, withLlrs, State.storeAll_err]
    decide

/-- ZeroGuard: `q0` +0.0 and -0.0. -/
theorem test_zero_products : (probProducts sample F64.zero [] 0 (col sample 0)).1 = ⟨0x0000000000000000#64⟩ ∧
    (probProducts sample ⟨0x8000000000000000#64⟩ [] 0 ((col sample 0).filter (· ≠ 0))).1 = ⟨0x8000000000000000#64⟩ := by
  decide +kernel

/-- ClampBeforeLog, each clause at its boundary. -/
theorem test_clamp_boundaries : F64.le ⟨0x3FEFF7CED916872B#64⟩ ⟨0x3FEFF7CED916872B#64⟩ = true ∧
    F64.le ⟨0xBFEFF7CED916872B#64⟩ ⟨0xBFEFF7CED916872B#64⟩ = true ∧ F64.nan.isNaN = true ∧
    F64.le ⟨0x3FEFF7CED916872B#64⟩ ⟨0x3FEFF7CED916872A#64⟩ = false := by decide

/-- TanhSpecialInputs, TanhOdd: a NaN and a value that is none. -/
theorem test_nan_and_number : (⟨0xFFFFFFFFFFFFFFFF#64⟩ : F64).isNaN = true ∧
    (⟨0xFFF0000000000000#64⟩ : F64).isNaN = false := by decide

/-- WindowMap: the last mapped word of `GJ_M`, and the hole after it. -/
theorem test_window : locate 0x35B4 = some (.gjM 173 5) ∧ locate 0x35B8 = none ∧ locate 0x5826 = none ∧
    locate 0x5824 = some (.mnRom 173 2) := by decide +kernel

/-- BadAccessRefused: a lane missing, an offset that is not aligned, unmapped offsets, read-only words. -/
theorem test_bad_accesses : (0x7 : BitVec 4) ≠ 0xF ∧ (0x0002 : Offset).toNat % 4 ≠ 0 ∧
    (∀ l ∈ windowLocs, l.offset ≠ (0x0024 : Offset).toNat ∧ l.offset ≠ (0x7FFC : Offset).toNat) ∧
    Loc.id ∈ registerLocs ∧ Loc.mnRom 173 2 ∈ registerLocs := by decide +kernel

/-- IdleReads, UnwrittenReadFaults, BufferWriteReadsBack: the edges of the buffers of an idle block. -/
theorem test_idle_locations : quiet.busy = false ∧ quiet.readLoc .id = some 0x4C445043 ∧ Loc.id ∈ windowLocs ∧
    (Loc.tanhX false ∈ bufferLocs ∧ quiet.written (.tanhX false) = false ∧ Loc.tanhX false ∉ quiet.runningOutputs) ∧
    (Loc.gjM 173 5 ∈ bufferLocs ∧ quiet.written (.gjM 173 5) = false ∧ Loc.gjM 173 5 ∉ quiet.runningOutputs) := by
  decide +kernel

/-- FirstErrorKept: no error yet, one already, and an access that records one. -/
theorem test_error_flags : quiet.errFlag = false ∧ (quiet.raise .badArg).errFlag = true ∧
    answers (fun t => t.err == some .badAccess) (hostAccess (.read 0x0024 0xF) true quiet) = true := by decide +kernel

/-- ControlWriteSetsIe, SoftReset: a word without `SRST` and one with it. -/
theorem test_control_words : (0x00000001 : Word).getLsbD 1 = false ∧ (0x00000002 : Word).getLsbD 1 = true ∧
    quiet.engine = none := by decide

/-- HardwareReset, NoAccessDuringReset: the turns of the two. -/
theorem test_reset_turns : State.turns { quiet with turns := [.assertRst] } = .assertRst :: [] ∧
    State.rst { quiet with rst := true, turns := [commandTurn 1] } = true := by decide

/-- A memory that holds exactly the word 0x00003FFF at offset 0x0114, `HARD[5]`. -/
theorem one_word_inv (m : Memory) (hwf : m.wf) (hw : m.readWord 0x114 = some 0x00003FFF)
    (hr : ∀ a, (m.read a).isSome = true ↔ 0x114 ≤ a ∧ a < 0x118) :
    m.wf ∧ m.onlyBuffers ∧ m.wholeWords ∧ m.reservedZero := by
  have hs : ∀ l : Loc, (m.readWord l.offset).isSome = true ↔ l.offset = 0x114 := by
    intro l
    have := l.offset_mod_four
    rw [Memory.readWord_isSome]
    constructor
    · intro h
      have := (hr _).mp (h l.offset (by omega) (by omega))
      omega
    · intro h a h1 h2
      exact (hr a).mpr (by omega)
  refine ⟨hwf, fun a v h => ?_, fun l _ a hc => ?_, fun l hl v h => ?_⟩
  · exact ⟨.hard 5, by decide +kernel, (hr a).mp (by rw [h]; rfl)⟩
  · rw [hr, hs]
    have := l.offset_mod_four
    simp only [Loc.covers] at hc
    omega
  · have ho := (hs l).mp (by rw [h]; rfl)
    have hm : ∀ l ∈ bufferLocs, l.offset = 0x114 → l.mask = 0x00003FFF := by decide +kernel
    rw [ho, hw] at h
    cases h
    rw [hm l hl ho]
    decide

/-- StepKeepsBufferInv: a written word, its reserved bits 0. -/
theorem test_buffer_inv : (quiet.store (.hard 5) 0xFFFFFFFF).BufferInv ∧
    ∃ t, step (quiet.store (.hard 5) 0xFFFFFFFF) = .next t := by
  refine ⟨?_, _, rfl⟩
  refine one_word_inv _ (State.wf_store _ _ _ (by decide)) ?_ fun a => ?_
  · exact quiet.readWord_store_same (.hard 5) 0xFFFFFFFF
  · have h := quiet.readByte_store (.hard 5) 0xFFFFFFFF a
    rw [State.readByte] at h
    rw [h]
    by_cases hc : (Loc.hard 5).covers a
    · rw [if_pos hc]
      exact ⟨fun _ => hc, fun _ => rfl⟩
    · rw [if_neg hc]
      exact ⟨fun h => absurd h (by simp [State.readByte, quiet, State.reset, Memory.read]), fun h => absurd h hc⟩

/-- StepKeepsEngineInv: a running command, and a step of it. -/
theorem test_engine_inv : checking.EngineInv ∧ ∃ t, step checking = .next t := by
  refine ⟨fun r h => ?_, checking.engineMove, ?_⟩
  · rw [checking, startCheck_engine] at h
    cases h
    refine ⟨by rw [checking, startCheck_cmd], ?_, rfl, fun l hl => ?_, trivial⟩
    · rw [checking, startCheck_done, filled, State.storeAll_done]
      rfl
    · rw [State.written, checking, startCheck_mem]
      exact (test_ready .check rfl).2.2 l hl
  · rw [step, takeTurn, test_running.2.1]

end Sys2Proof.Tests
end

section
/-!
PROOF. What a host reads while a command runs (20_memory.md R111): the offset of a mapped location names that location, and
whether the running command writes it selects the answer.
-/
namespace Sys2Proof.Machine

/-! ### The window -/

/-- The indices of a location are within the sizes of its array (the table of 10_state.md R40). -/
def Loc.InBounds : Loc → Prop
  | .hard w => w < 6
  | .crcMsg w => w < 8
  | .llr i _ => i < 174
  | .which k => k < 174
  | .gjM r w => r < 174 ∧ w < 6
  | .nmRom j k => j < 83 ∧ k < 7
  | .mnRom i s => i < 174 ∧ s < 3
  | .id | .version | .ctrl | .status | .cmd | .score | .itersRun | .gjOk | .crcOut | .tanhX _ | .tanhY _ => True

theorem mem_llrLocs_iff (i : Nat) (high : Bool) : Loc.llr i high ∈ llrLocs ↔ i < 174 := by
  cases high <;> simp [llrLocs]

theorem mem_windowLocs_iff (l : Loc) : l ∈ windowLocs ↔ l.InBounds := by
  cases l with
  | llr i high =>
    simp [windowLocs, registerLocs, bufferLocs, hardLocs, whichLocs, gjLocs, mem_llrLocs_iff, Loc.InBounds]
  | _ => simp [windowLocs, registerLocs, bufferLocs, hardLocs, llrLocs, whichLocs, gjLocs, Loc.InBounds]

theorem highBy_eq_zero_or_four (high : Bool) : highBy high = 0 ∨ highBy high = 4 := by
  cases high <;> decide

theorem highBy_beq_four (high : Bool) : (highBy high == 4) = high := by
  cases high <;> rfl

theorem Loc.InBounds.offset_lt {l : Loc} (h : l.InBounds) : l.offset < 0x8000 := by
  cases l <;> simp only [Loc.InBounds] at h <;> rw [Loc.offset]
  case tanhX high | tanhY high | llr high =>
    have := highBy_eq_zero_or_four high
    omega
  all_goals omega

/-- The ranges of the window are disjoint: every test of `locate` before the one of the location's own range fails. -/
theorem locate_offset {l : Loc} (h : l.InBounds) : locate l.offset = some l := by
  cases l
  case llr i high =>
    have hi : i < 174 := h
    have hh := highBy_eq_zero_or_four high
    have hq : (0x800 + 8 * i + highBy high - 0x800) / 8 = i := by omega
    have hr : (0x800 + 8 * i + highBy high - 0x800) % 8 = highBy high := by omega
    rw [Loc.offset, locate]
    repeat rw [if_neg (by omega)]
    rw [if_pos (by omega), hq, hr, highBy_beq_four]
  case gjM r w =>
    obtain ⟨hr, hw⟩ := h
    rw [Loc.offset, locate]
    repeat rw [if_neg (by omega)]
    rw [if_pos (by omega), if_pos (by omega)]
    congr 2 <;> omega
  case hard | crcMsg | which | nmRom | mnRom =>
    simp only [Loc.InBounds] at h
    rw [Loc.offset, locate]
    repeat rw [if_neg (by omega)]
    rw [if_pos (by omega)]
    congr 2 <;> omega
  case tanhX high | tanhY high => cases high <;> rfl
  all_goals rfl

theorem Loc.bus_toNat {l : Loc} (h : l ∈ windowLocs) : l.bus.toNat = l.offset :=
  Nat.mod_eq_of_lt ((mem_windowLocs_iff l).mp h).offset_lt

/-- A host access with all lanes at the offset of a mapped location reaches that location. -/
theorem target_bus {l : Loc} (h : l ∈ windowLocs) : target l.bus 0xF = some l := by
  have hw : wellFormedAccess l.bus 0xF = true := by simp [wellFormedAccess, Loc.bus_toNat h, l.offset_mod_four]
  rw [target, if_pos hw, Loc.bus_toNat h, locate_offset ((mem_windowLocs_iff l).mp h)]

/-! ### Host reads -/

theorem State.runningOutputs_of_engine {s : State} {r : Running} (h : s.engine = some r) :
    s.runningOutputs = outputLocs r.cmd := by
  rw [State.runningOutputs, h]

/-- A read of a word the running command writes answers the next free value. -/
theorem hostRead_of_mem_runningOutputs {s : State} {l : Loc} (hl : l ∈ windowLocs) (ho : l ∈ s.runningOutputs) :
    hostRead l.bus 0xF s = .next (s.drawn.answer (Config.freeWord s.draws)) := by
  have hc : s.runningOutputs.contains l = true := List.contains_iff_mem.mpr ho
  simp only [hostRead, target_bus hl, if_pos hc]

/-- A read of any other word that holds a value answers it, a command running or not. -/
theorem hostRead_of_readLoc {s : State} {l : Loc} {v : Word} (hl : l ∈ windowLocs) (ho : l ∉ s.runningOutputs)
    (hv : s.readLoc l = some v) : hostRead l.bus 0xF s = .next (s.answer v) := by
  have hc : ¬ s.runningOutputs.contains l = true := fun h => ho (List.contains_iff_mem.mp h)
  simp only [hostRead, target_bus hl, if_neg hc, hv]

/-- Settles O42: a running command's outputs are `outputLocs` of it, and the two kinds of read have a lemma each. -/
theorem busyReads : Obligations.BusyReads := by
  intro s r hr l hl
  rw [← State.runningOutputs_of_engine hr]
  constructor
  · intro ho
    exact hostRead_of_mem_runningOutputs hl ho
  · intro ho v hv
    exact hostRead_of_readLoc hl ho hv

end Sys2Proof.Machine
end

section
/-!
PROOF. The score of a word and the size of the Tanner graph (40_parity_check.md R163, R167).
-/
namespace Sys2Proof.Machine

/-! ### The score counts even checks -/

/-- An exclusive or over a list says whether the number of its true entries is odd. -/
theorem foldl_xor_eq_countP {α : Type} (l : List α) (f : α → Bool) (b : Bool) :
    l.foldl (fun p x => p ^^ f x) b = (b ^^ (l.countP f % 2 == 1)) := by
  induction l generalizing b with
  | nil => simp
  | cons x l ih =>
    rw [List.foldl_cons, ih, List.countP_cons]
    have hmod : l.countP f % 2 = 0 ∨ l.countP f % 2 = 1 := by omega
    rcases hmod with h | h <;> cases f x <;> simp [h, Nat.add_mod]

theorem not_parity_eq (t : Tables) (j : Nat) (c : Bits174) :
    (!parity t j c) = ((row t j).countP (c.getLsbD ·) % 2 == 0) := by
  rw [parity, foldl_xor_eq_countP, Bool.false_xor]
  rcases Nat.mod_two_eq_zero_or_one ((row t j).countP (c.getLsbD ·)) with h | h <;> simp [h]

theorem nm_row_length (t : Tables) {j : Nat} (h : j < 83) : (t.nm.getD j []).length = 7 := by
  have hrow := (wf_parts t).2.2.1 _ (nm_getD_mem t j h)
  simp only [Config.nmRowOk, Bool.and_eq_true, beq_iff_eq] at hrow
  obtain ⟨⟨⟨hlen, -⟩, -⟩, -⟩ := hrow
  exact hlen

/-- The ones of a check, counted over its bits, are those counted over the seven slots of its row of `Nm`. -/
theorem countP_row_eq_slots (t : Tables) (c : Bits174) {j : Nat} (h : j < 83) :
    (row t j).countP (c.getLsbD ·) = ((List.range 7).filter fun k =>
      decide (0 < (t.nm.getD j []).getD k 0) && c.getLsbD ((t.nm.getD j []).getD k 0 - 1)).length := by
  have hslots := list_map_getD_range (t.nm.getD j []) 0
  rw [nm_row_length t h] at hslots
  rw [row, Config.present, List.countP_map, List.countP_filter, ← List.countP_eq_length_filter]
  conv_lhs => rw [← hslots, List.countP_map]
  refine List.countP_congr fun k _ => ?_
  simp [Nat.pos_iff_ne_zero, and_comm]

/-- Settles O11: the parity of a check is that of the ones in its slots, check by check. -/
theorem scoreCountsEvenChecks : Obligations.ScoreCountsEvenChecks := by
  intro t c
  refine ⟨?_, scoreOf_le t c⟩
  rw [scoreOf]
  congr 1
  refine List.filter_congr fun j hj => ?_
  rw [not_parity_eq, countP_row_eq_slots t c (List.mem_range.mp hj)]

/-! ### The edges, counted by checks and by bits -/

theorem length_row_eq_card (t : Tables) {j : Nat} (h : j < 83) :
    (row t j).length = ((Finset.range 174).filter (· ∈ row t j)).card := by
  obtain ⟨hnodup, -, hlt⟩ := row_spec t j h
  rw [← List.toFinset_card_of_nodup hnodup]
  congr 1
  ext i
  simpa using hlt i

theorem length_col_eq_card (t : Tables) {i : Nat} (h : i < 174) :
    (col t i).length = ((Finset.range 83).filter (i ∈ row t ·)).card := by
  obtain ⟨hnodup, -, hlt⟩ := col_spec t i h
  rw [← List.toFinset_card_of_nodup hnodup]
  congr 1
  ext j
  have hedge : j < 83 → (i ∈ row t j ↔ j ∈ col t i) := mem_row_iff_mem_col t i j h
  simp only [List.mem_toFinset, Finset.mem_filter, Finset.mem_range]
  exact ⟨fun hj => ⟨hlt j hj, (hedge (hlt j hj)).mpr hj⟩, fun ⟨hj, hi⟩ => (hedge hj).mp hi⟩

/-- Each of the 174 bits is in three checks, so the rows hold 522 entries in all. -/
theorem sum_row_length (t : Tables) : ((List.range 83).map fun j => (row t j).length).sum = 522 := by
  calc ((List.range 83).map fun j => (row t j).length).sum
      = ∑ j ∈ Finset.range 83, (row t j).length := rfl
    _ = ∑ j ∈ Finset.range 83, ((Finset.range 174).filter (· ∈ row t j)).card :=
        Finset.sum_congr rfl fun j hj => length_row_eq_card t (Finset.mem_range.mp hj)
    _ = ∑ i ∈ Finset.range 174, ((Finset.range 83).filter (i ∈ row t ·)).card :=
        Finset.sum_card_bipartiteAbove_eq_sum_card_bipartiteBelow fun j i => i ∈ row t j
    _ = ∑ i ∈ Finset.range 174, 3 := Finset.sum_congr rfl fun i hi => by
        rw [← length_col_eq_card t (Finset.mem_range.mp hi), (col_spec t i (Finset.mem_range.mp hi)).2.1]
    _ = 522 := by simp

/-- Numbers that are all 6 or 7: how many there are of each, and their sum. -/
theorem six_seven_counts (l : List Nat) (f : Nat → Nat) (h : ∀ x ∈ l, f x = 6 ∨ f x = 7) :
    l.countP (f · == 6) + l.countP (f · == 7) = l.length ∧
      6 * l.countP (f · == 6) + 7 * l.countP (f · == 7) = (l.map f).sum := by
  induction l with
  | nil => simp
  | cons x l ih =>
    obtain ⟨hlen, hsum⟩ := ih fun y hy => h y (List.mem_cons_of_mem _ hy)
    simp only [List.countP_cons, List.map_cons, List.sum_cons, List.length_cons, beq_iff_eq]
    rcases h x List.mem_cons_self with hx | hx
    · rw [hx, if_pos rfl, if_neg (by decide)]
      omega
    · rw [hx, if_neg (by decide), if_pos rfl]
      omega

/-- Settles O12: 83 weights of 6 or 7 that sum to 522 leave one solution for how many there are of each. -/
theorem tannerGraphCounts : Obligations.TannerGraphCounts := by
  intro t
  have hsum := sum_row_length t
  have hcounts := six_seven_counts (List.range 83) (fun j => (row t j).length)
    fun j hj => (row_spec t j (List.mem_range.mp hj)).2.1
  rw [hsum, List.length_range] at hcounts
  simp only [← List.countP_eq_length_filter]
  refine ⟨hsum, ?_, ?_⟩ <;> omega

end Sys2Proof.Machine
end

section
/-!
PROOF. CHECK after a decode (40_parity_check.md R171): what a decode writes to `SCORE` is the score of what it writes to
`HARD`.
-/
namespace Sys2Proof.Machine

/-! ### The score a decode reports -/

/-- What a decode keeps between its phases: `BEST_SCORE` is the score of `BEST` (41_scheduler.md R187), and a decode that
ended early did so at a `CW` of score 83 (R185). -/
def Decoder.Scored (t : Tables) (d : Decoder) : Prop :=
  d.bestScore = scoreOf t d.best ∧ (d.early = true → scoreOf t d.cw = 83)

theorem Decoder.Scored.of_not_early {t : Tables} {d : Decoder} (h : d.bestScore = scoreOf t d.best)
    (he : d.early = false) : d.Scored t :=
  ⟨h, fun he' => absurd (he.symm.trans he') Bool.false_ne_true⟩

theorem Decoder.scored_test {t : Tables} {d : Decoder} (h : d.bestScore = scoreOf t d.best) (he : d.early = false) :
    (d.test t).Scored t := by
  unfold Decoder.test
  split_ifs with h83 hbetter
  · exact ⟨h, fun _ => h83⟩
  · exact .of_not_early rfl he
  · exact .of_not_early h he

theorem Decoder.scored_loop {t : Tables} (n : Nat) {d : Decoder} (h : d.bestScore = scoreOf t d.best)
    (he : d.early = false) : (Decoder.loop t n d).Scored t := by
  induction n generalizing d with
  | zero => exact .of_not_early h he
  | succ n ih =>
    have htest : (((d.nextIteration.checkUpdate t).hardDecision t).test t).Scored t := Decoder.scored_test h he
    rw [Decoder.loop]
    split_ifs with hearly
    · exact htest
    · exact ih htest.1 (eq_false_of_ne_true hearly)

theorem Decoder.Scored.result_score {t : Tables} {d : Decoder} (h : d.Scored t) :
    d.result.2.1 = scoreOf t d.result.1 := by
  obtain ⟨hbest, hearly⟩ := h
  unfold Decoder.result
  split_ifs with he
  · exact (hearly he).symm
  · exact hbest

theorem Decoder.run_result_score (dom : Domain) (iters : Nat) (t : Tables) (lc : List F64) :
    (Decoder.run dom iters t lc).result.2.1 = scoreOf t (Decoder.run dom iters t lc).result.1 :=
  (Decoder.scored_loop iters rfl rfl).result_score

/-! ### The buffers after a decode -/

theorem finalWork_decodeInstr (dom : Domain) (iters : BitVec 16) (s : State) :
    finalWork (decodeInstr dom iters) s = .decode (Decoder.run dom iters.toNat s.rom s.llrs) := by
  cases dom <;> rfl

theorem State.deliver_mem (s : State) (w : Work) : (s.deliver w).mem = (s.writeOutputs w).mem :=
  State.complete_mem _

theorem State.deliver_decode_score (s : State) (d : Decoder) :
    (s.deliver (.decode d)).score = BitVec.ofNat 7 d.result.2.1 := by
  rw [State.deliver, State.complete_score, State.writeOutputs, State.setItersRun_score, State.setScore_score]

theorem State.deliver_decode_mem (s : State) (d : Decoder) :
    (s.deliver (.decode d)).mem = (s.writeHard d.result.1).mem := by
  rw [State.deliver_mem, State.writeOutputs_decode_mem]

theorem State.deliver_decode_hardWord (s : State) (d : Decoder) : (s.deliver (.decode d)).hardWord = d.result.1 := by
  rw [State.hardWord_congr (s.deliver_decode_mem d), State.hardWord_writeHard]

/-- A decode leaves `HARD` written, so CHECK is ready. -/
theorem ready_check_of_decode (s : State) (d : Decoder) : Ready .check (s.deliver (.decode d)) := by
  refine ⟨by simp [State.busy], rfl, fun l hl => ?_⟩
  obtain ⟨w, hw, rfl⟩ := List.mem_map.mp hl
  rw [State.written, State.deliver_decode_mem, State.readWord_writeHard _ _ _ (List.mem_range.mp hw)]
  rfl

/-- A ready CHECK writes the score of `HARD` and leaves `HARD` as it is. -/
theorem exec_check_ready {s : State} (h : Ready .check s) :
    ∃ u, exec .check s = .next u ∧ u.score = BitVec.ofNat 7 (scoreOf s.rom s.hardWord) ∧ u.hardWord = s.hardWord := by
  refine ⟨_, exec_ready h, ?_, State.hardWord_congr ?_⟩
  · rw [finalWork, State.deliver, State.complete_score, State.writeOutputs, State.setScore_score]
  · rw [finalWork, State.deliver_mem, State.writeOutputs_check_mem, State.accept_mem]

/-- Settles O15: the `SCORE` of a decode is already the score of its `HARD`, which CHECK computes again. -/
theorem checkAfterDecode : Obligations.CheckAfterDecode := by
  intro dom iters s t hready hexec hscore
  rw [exec_ready hready, finalWork_decodeInstr] at hexec
  cases hexec
  obtain ⟨u, hu, huscore, huhard⟩ := exec_check_ready (ready_check_of_decode _ _)
  refine ⟨u, hu, ?_, huhard⟩
  rw [State.deliver_decode_score, Decoder.run_result_score] at hscore
  rw [huscore, State.deliver_decode_hardWord, State.deliver_rom, State.accept_rom, hscore]

end Sys2Proof.Machine
end

section
/-!
PROOF. The tables are constants of the block (40_parity_check.md R165): no kind of turn changes them, and no command writes
the words a host reads them from.
-/
namespace Sys2Proof.Machine

/-! ### No step changes the tables -/

theorem exec_rom {i : Instr} {s t : State} (h : exec i s = .next t) : t.rom = s.rom := by
  rcases exec_next_cases h with ⟨_, rfl⟩ | ⟨_, _, rfl⟩ | ⟨_, rfl⟩
  · exact s.raise_rom _
  · exact s.raise_rom _
  · rw [State.deliver_rom, State.accept_rom]

theorem beginCommand_rom {i : Instr} {s t : State} (h : beginCommand i s = .next t) : t.rom = s.rom := by
  rcases beginCommand_next_cases h with ⟨_, rfl⟩ | ⟨_, _, rfl⟩ | ⟨_, rfl⟩
  · exact s.raise_rom _
  · exact s.raise_rom _
  · exact s.accept_rom i

theorem issue_rom {v : Word} {prompt : Bool} {s t : State} (h : issue v prompt s = .next t) : t.rom = s.rom := by
  rcases issue_next_cases h with ⟨_, rfl⟩ | ⟨_, _, rfl⟩ | ⟨_, i, _, ⟨_, hrun⟩ | ⟨_, hbegin⟩⟩
  · exact s.raise_rom _
  · exact s.raise_rom _
  · exact exec_rom hrun
  · exact beginCommand_rom hbegin

@[simp] theorem State.writeCtrl_rom (s : State) (v : Word) : (s.writeCtrl v).rom = s.rom := by
  unfold State.writeCtrl
  split
  · rw [State.softReset, State.clearControl_rom, State.abandon_rom]
  · rfl

@[simp] theorem State.writeBuffer_rom (s : State) (l : Loc) (v : Word) : (s.writeBuffer l v).rom = s.rom := by
  unfold State.writeBuffer
  split
  · exact s.raise_rom _
  · exact s.store_rom l v

theorem hostRead_rom {off : Offset} {lanes : BitVec 4} {s t : State} (h : hostRead off lanes s = .next t) :
    t.rom = s.rom := by
  rcases hostRead_next_cases h with ⟨_, rfl⟩ | ⟨_, _, _, rfl⟩ | ⟨_, v, _, _, _, rfl⟩
  · rw [State.answer_rom, State.raise_rom]
  · rw [State.answer_rom, State.drawn_rom]
  · exact s.answer_rom v

theorem hostWrite_rom {off : Offset} {lanes : BitVec 4} {v : Word} {prompt : Bool} {s t : State}
    (h : hostWrite off lanes v prompt s = .next t) : t.rom = s.rom := by
  rcases hostWrite_next_cases h with ⟨_, rfl⟩ | ⟨_, rfl⟩ | ⟨_, rfl⟩ | ⟨_, hissue⟩ | ⟨l, _, _, rfl⟩
  · exact s.raise_rom _
  · exact s.writeCtrl_rom v
  · exact s.clearStatus_rom v
  · exact issue_rom hissue
  · exact s.writeBuffer_rom l v

theorem hostAccess_rom {a : Access} {prompt : Bool} {s t : State} (h : hostAccess a prompt s = .next t) :
    t.rom = s.rom := by
  cases a with
  | read off lanes => exact hostRead_rom h
  | write off lanes v => exact hostWrite_rom h

@[simp] theorem State.engineMove_rom (s : State) : s.engineMove.rom = s.rom := by
  rcases s.engineMove_cases with ⟨_, h⟩ | ⟨r, _, _, h⟩ | ⟨r, _, _, h⟩
  · rw [h]
  · rw [h, State.deliver_rom]
  · rw [h]

theorem step_rom {s t : State} (h : step s = .next t) : t.rom = s.rom := by
  rcases step_next_cases h with
    ⟨_, rfl⟩ | ⟨rest, ⟨a, p, _, _, haccess⟩ | ⟨_, rfl⟩ | ⟨_, rfl⟩ | ⟨_, rfl⟩⟩
  · exact s.engineMove_rom
  · exact hostAccess_rom (s := { s with turns := rest }) haccess
  · exact State.engineMove_rom _
  · rfl
  · rfl

/-! ### Reading the tables -/

/-- The words of the tables. -/
def Loc.isRom : Loc → Bool
  | .nmRom _ _ | .mnRom _ _ => true
  | _ => false

theorem isRom_of_mem_outputLocs {i : Instr} {l : Loc} (h : l ∈ outputLocs i) : l.isRom = false := by
  cases l with
  | nmRom | mnRom => cases i <;> simp [outputLocs, hardLocs, gjLocs, whichLocs] at h
  | _ => rfl

theorem State.isRom_of_mem_runningOutputs {s : State} {l : Loc} (h : l ∈ s.runningOutputs) : l.isRom = false := by
  cases hr : s.engine with
  | none => simp [State.runningOutputs, hr] at h
  | some r =>
    rw [State.runningOutputs_of_engine hr] at h
    exact isRom_of_mem_outputLocs h

/-- A word of the tables reads as it stands, whatever command runs. -/
theorem hostRead_of_isRom {s : State} {l : Loc} {v : Word} (hl : l.InBounds) (hrom : l.isRom = true)
    (hv : s.readLoc l = some v) : hostRead l.bus 0xF s = .next (s.answer v) := by
  have hout : l ∉ s.runningOutputs := fun h => by simp [State.isRom_of_mem_runningOutputs h] at hrom
  exact hostRead_of_readLoc ((mem_windowLocs_iff l).mpr hl) hout hv

/-- Settles O16: by cases on what a step can do, and a read of a table word is never one of a running command's output. -/
theorem tablesConstant : Obligations.TablesConstant := by
  refine ⟨rfl, fun s t h => step_rom h, fun s j k hj hk => ?_, fun s i k hi hk => ?_⟩
  · exact hostRead_of_isRom (l := .nmRom j k) ⟨hj, hk⟩ rfl rfl
  · exact hostRead_of_isRom (l := .mnRom i k) ⟨hi, hk⟩ rfl rfl

end Sys2Proof.Machine
end

section
/-!
PROOF. How a decode ends (41_scheduler.md R185 to R190): TEST changes the record of the best word only, so the iterations
of a decode are those without TEST, up to the first that scores 83.
-/
namespace Sys2Proof.Machine

/-! ### The iterations of a decode -/

/-- The decode of `lc` after `k` iterations without TEST: the messages and the last hard decision. -/
def plainAfter (dom : Domain) (t : Tables) (lc : List F64) (k : Nat) : Decoder :=
  (plainIteration t)^[k] ((Decoder.start dom 0 lc).init t)

/-- The decode of `lc` with a budget after `k` iterations of which none scored 83, `best` being the best word so far. -/
def decodeAfter (dom : Domain) (iters : Nat) (t : Tables) (lc : List F64) (k : Nat) (best : Bits174) : Decoder :=
  { plainAfter dom t lc k with iters := iters, best := best, bestScore := scoreOf t best }

/-- A later word replaces the best one where its score is strictly greater (41_scheduler.md R187). -/
def betterOf (t : Tables) (best word : Bits174) : Bits174 := if scoreOf t best < scoreOf t word then word else best

/-- The best of the sign decode and the hard decisions of iterations 1 to `k` (41_scheduler.md R187). -/
def bestUpTo (dom : Domain) (t : Tables) (lc : List F64) (k : Nat) : Bits174 :=
  (List.range k).foldl (fun best j => betterOf t best (hardDecisionAt dom t lc (j + 1))) (signDecode lc)

section
variable {dom : Domain} {iters : Nat} {t : Tables} {lc : List F64} {best : Bits174}

theorem hardDecisionAt_eq_cw (k : Nat) : hardDecisionAt dom t lc k = (plainAfter dom t lc k).cw := rfl

theorem plainAfter_succ (k : Nat) : plainAfter dom t lc (k + 1) = plainIteration t (plainAfter dom t lc k) :=
  Function.iterate_succ_apply' _ _ _

theorem decodeAfter_succ (k : Nat) :
    decodeAfter dom iters t lc (k + 1) best =
      { plainIteration t (plainAfter dom t lc k) with iters := iters, best := best, bestScore := scoreOf t best } := by
  rw [decodeAfter, plainAfter_succ]

theorem plainAfter_nit (k : Nat) : (plainAfter dom t lc k).nit = k := by
  induction k with
  | zero => rfl
  | succ k ih => rw [plainAfter_succ, ← congrArg (· + 1) ih]; rfl

theorem plainAfter_early (k : Nat) : (plainAfter dom t lc k).early = false := by
  induction k with
  | zero => rfl
  | succ k ih => rw [plainAfter_succ, ← ih]; rfl

theorem bestUpTo_succ (k : Nat) :
    bestUpTo dom t lc (k + 1) = betterOf t (bestUpTo dom t lc k) (hardDecisionAt dom t lc (k + 1)) := by
  simp only [bestUpTo, List.range_succ, List.foldl_append, List.foldl_cons, List.foldl_nil]

/-- TEST at a word that does not score 83 (41_scheduler.md R187). -/
theorem Decoder.test_of_ne {d : Decoder} {word : Bits174} (hcw : d.cw = word) (hbest : d.bestScore = scoreOf t d.best)
    (hne : scoreOf t word ≠ 83) :
    d.test t = { d with best := betterOf t d.best word, bestScore := scoreOf t (betterOf t d.best word) } := by
  subst hcw
  rw [Decoder.test, if_neg hne, betterOf, hbest]
  split
  · rfl
  · rw [← hbest]

/-- TEST at a word that scores 83 (41_scheduler.md R185). -/
theorem Decoder.test_of_eq {d : Decoder} (h : scoreOf t d.cw = 83) : d.test t = { d with early := true } := by
  rw [Decoder.test, if_pos h]

/-- An iteration up to TEST decides what the iteration without TEST decides: no message depends on the record of the best
word. -/
theorem decodeAfter_cw (k : Nat) :
    (((decodeAfter dom iters t lc k best).nextIteration.checkUpdate t).hardDecision t).cw =
      hardDecisionAt dom t lc (k + 1) := by
  rw [hardDecisionAt_eq_cw, plainAfter_succ]
  rfl

/-- An iteration that does not score 83 is followed by the next (41_scheduler.md R183). -/
theorem loop_decodeAfter_of_ne {k : Nat} (n : Nat) (h : scoreOf t (hardDecisionAt dom t lc (k + 1)) ≠ 83) :
    Decoder.loop t (n + 1) (decodeAfter dom iters t lc k best) =
      Decoder.loop t n (decodeAfter dom iters t lc (k + 1) (betterOf t best (hardDecisionAt dom t lc (k + 1)))) := by
  have htest := Decoder.test_of_ne (decodeAfter_cw (iters := iters) (best := best) k) rfl h
  have hearly := (congrArg Decoder.early htest).trans (plainAfter_early k)
  rw [Decoder.loop, if_neg (ne_true_of_eq_false hearly), htest, decodeAfter_succ]
  rfl

/-- An iteration that scores 83 ends the decode with its word (41_scheduler.md R185). -/
theorem result_loop_decodeAfter_of_eq {k : Nat} (n : Nat)
    (h : scoreOf t (hardDecisionAt dom t lc (k + 1)) = 83) :
    (Decoder.loop t (n + 1) (decodeAfter dom iters t lc k best)).result =
      (hardDecisionAt dom t lc (k + 1), 83, k + 1) := by
  have hnit : (decodeAfter dom iters t lc k best).nit = k := plainAfter_nit k
  rw [Decoder.loop, Decoder.test_of_eq (by rwa [decodeAfter_cw]), ← decodeAfter_cw (iters := iters) (best := best)]
  exact congrArg (fun nit => (_, 83, nit + 1)) hnit

/-- A decode whose first `m` iterations do not score 83 reaches iteration `m` with the best word of them. -/
theorem run_eq_loop_decodeAfter {m : Nat} (n : Nat)
    (h : ∀ k < m, scoreOf t (hardDecisionAt dom t lc (k + 1)) ≠ 83) :
    Decoder.run dom (m + n) t lc = Decoder.loop t n (decodeAfter dom (m + n) t lc m (bestUpTo dom t lc m)) := by
  suffices hloop : ∀ iters, Decoder.loop t (m + n) (decodeAfter dom iters t lc 0 (signDecode lc)) =
      Decoder.loop t n (decodeAfter dom iters t lc m (bestUpTo dom t lc m)) from hloop (m + n)
  intro iters
  induction m generalizing n with
  | zero => rw [Nat.zero_add]; rfl
  | succ m ih =>
    rw [Nat.add_right_comm, Nat.add_assoc, ih (n + 1) fun k hk => h k (by omega),
      loop_decodeAfter_of_ne n (h m (by omega)), bestUpTo_succ]

/-- Early termination (41_scheduler.md R186): the first iteration that scores 83 gives the result. -/
theorem run_result_of_first {k : Nat} (hpos : 1 ≤ k) (hle : k ≤ iters) (h : scoreOf t (hardDecisionAt dom t lc k) = 83)
    (hfirst : ∀ j, 1 ≤ j → j < k → scoreOf t (hardDecisionAt dom t lc j) ≠ 83) :
    (Decoder.run dom iters t lc).result = (hardDecisionAt dom t lc k, 83, k) := by
  obtain ⟨m, rfl⟩ := Nat.exists_eq_add_of_le' hpos
  obtain ⟨n, rfl⟩ := Nat.exists_eq_add_of_le hle
  rw [Nat.add_assoc, run_eq_loop_decodeAfter (1 + n) fun j hj => hfirst (j + 1) (by omega) (by omega), Nat.add_comm 1 n]
  exact result_loop_decodeAfter_of_eq n h

/-- Budget exhaustion (41_scheduler.md R186): where no iteration scores 83, the best word is the result. -/
theorem run_result_of_exhausted (h : ∀ k, 1 ≤ k → k ≤ iters → scoreOf t (hardDecisionAt dom t lc k) ≠ 83) :
    (Decoder.run dom iters t lc).result =
      (bestUpTo dom t lc iters, scoreOf t (bestUpTo dom t lc iters), iters) := by
  have hrun : Decoder.run dom iters t lc =
      Decoder.loop t 0 (decodeAfter dom iters t lc iters (bestUpTo dom t lc iters)) :=
    run_eq_loop_decodeAfter 0 fun k hk => h (k + 1) (by omega) hk
  have hearly : (decodeAfter dom iters t lc iters (bestUpTo dom t lc iters)).early = false := plainAfter_early iters
  rw [hrun, Decoder.loop, Decoder.result, if_neg (ne_true_of_eq_false hearly)]
  rfl

end

/-! ### What a decode answers -/

theorem State.deliver_decode_itersRun (s : State) (d : Decoder) :
    (s.deliver (.decode d)).itersRun = BitVec.ofNat 16 d.result.2.2 := by
  rw [State.deliver, State.complete_itersRun, State.writeOutputs, State.setItersRun_itersRun]

theorem State.deliver_busy (s : State) (w : Work) : (s.deliver w).busy = false := by
  rw [State.busy, State.deliver_engine, Option.isSome_none]

/-- A ready decode completes with the result of its run. -/
theorem exec_decodeInstr_ready {dom : Domain} {iters : BitVec 16} {s : State} (h : Ready (decodeInstr dom iters) s) :
    exec (decodeInstr dom iters) s = .next ((s.accept (decodeInstr dom iters)).deliver
      (.decode (Decoder.run dom iters.toNat s.rom s.llrs))) := by
  rw [exec_ready h, finalWork_decodeInstr]

/-- Settles O17: up to the first iteration that scores 83 the decode runs as without TEST, so its result is known in both
endings. -/
theorem decodeOutcome : Obligations.DecodeOutcome := by
  intro dom iters s hready
  refine ⟨_, exec_decodeInstr_ready hready, State.deliver_done _ _, State.deliver_busy _ _, ?_, ?_, ?_, ?_⟩
  · rw [State.deliver_err, State.accept_err]
  · rw [State.deliver_decode_score, State.deliver_decode_hardWord, Decoder.run_result_score]
  · intro k hpos hle h83 hfirst
    rw [State.deliver_decode_hardWord, State.deliver_decode_score, State.deliver_decode_itersRun,
      run_result_of_first hpos hle h83 hfirst]
    exact ⟨rfl, rfl, Nat.mod_eq_of_lt (hle.trans_lt iters.isLt)⟩
  · intro hne
    rw [State.deliver_decode_itersRun, State.deliver_decode_hardWord, run_result_of_exhausted hne]
    exact ⟨(BitVec.ofNat_toNat 16 iters).trans iters.setWidth_eq, rfl⟩

/-! ### The best score never falls -/

/-- TEST replaces the best word by a strictly better one only (41_scheduler.md R187). -/
theorem Decoder.bestScore_le_test (t : Tables) (d : Decoder) : d.bestScore ≤ (d.test t).bestScore := by
  unfold Decoder.test
  split_ifs with h83 hbetter
  · exact le_rfl
  · exact hbetter.le
  · exact le_rfl

theorem Decoder.proceed_bestScore (d : Decoder) : d.proceed.2.bestScore = d.bestScore := by
  unfold Decoder.proceed
  split <;> rfl

theorem Decoder.bestScore_le_move (t : Tables) {ph : Phase} (d : Decoder) (h : ph ≠ .init) :
    d.bestScore ≤ (Decoder.move t ph d).2.bestScore := by
  cases ph with
  | init => exact absurd rfl h
  | cn | hd | finish => exact le_rfl
  | test =>
    rw [Decoder.move]
    split <;> exact d.bestScore_le_test t
  | vn => exact (Decoder.proceed_bestScore (d.variableUpdate t)).ge

theorem Decoder.bestScore_le_loop (t : Tables) (n : Nat) (d : Decoder) :
    d.bestScore ≤ (Decoder.loop t n d).bestScore := by
  induction n generalizing d with
  | zero => exact le_rfl
  | succ n ih =>
    have htest := Decoder.bestScore_le_test t ((d.nextIteration.checkUpdate t).hardDecision t)
    rw [Decoder.loop]
    split_ifs with hearly
    · exact htest
    · exact htest.trans (ih (Decoder.variableUpdate _ t))

/-- The score of a result is at least the seed's: 83 after early termination, else a best score that began as the seed's. -/
theorem seed_le_run_result_score (dom : Domain) (iters : Nat) (t : Tables) (lc : List F64) :
    scoreOf t (signDecode lc) ≤ (Decoder.run dom iters t lc).result.2.1 := by
  rw [Decoder.result]
  split
  · exact scoreOf_le t _
  · exact Decoder.bestScore_le_loop t iters ((Decoder.start dom iters lc).init t)

/-- Settles O19: after INIT only TEST touches the best score, never to lower it; a score fits in `SCORE`. -/
theorem scoreAtLeastSeed : Obligations.ScoreAtLeastSeed := by
  refine ⟨fun t ph d h => d.bestScore_le_move t h, fun dom iters s hready => ⟨_, exec_decodeInstr_ready hready, ?_⟩⟩
  have hseed := seed_le_run_result_score dom iters.toNat s.rom s.llrs
  rw [Decoder.run_result_score] at hseed
  have hle := scoreOf_le s.rom (Decoder.run dom iters.toNat s.rom s.llrs).result.1
  rw [State.deliver_decode_score, Decoder.run_result_score, BitVec.toNat_ofNat, Nat.mod_eq_of_lt (by omega)]
  exact hseed

/-! ### The outputs are a function of the LLRs, the budget and the tables -/

theorem State.llrs_congr_of_readLoc {s s' : State} (h : ∀ l ∈ llrLocs, s.readLoc l = s'.readLoc l) :
    s.llrs = s'.llrs := by
  refine List.map_congr_left fun i hi => ?_
  have hword (high : Bool) : s.word (.llr i high) = s'.word (.llr i high) :=
    congrArg (·.getD 0) (h _ ((mem_llrLocs_iff i high).mpr (List.mem_range.mp hi)))
  rw [State.llr, State.llr, hword, hword]

/-- A word of `HARD` after a decode is that of its result. -/
theorem State.deliver_decode_readLoc_hard (s : State) (d : Decoder) {w : Nat} (h : w < 6) :
    (s.deliver (.decode d)).readLoc (.hard w) = some (packedWord d.result.1 w &&& (Loc.hard w).mask) := by
  rw [State.readLoc, State.deliver_decode_mem, State.readWord_writeHard _ _ _ h]

/-- Settles O20: both states run the same decode, whose result alone gives each output. -/
theorem decodeDeterministic : Obligations.DecodeDeterministic := by
  intro dom iters s s' hready hready' hrom hllr
  refine ⟨_, _, exec_decodeInstr_ready hready, exec_decodeInstr_ready hready', ?_⟩
  rw [← hrom, ← State.llrs_congr_of_readLoc hllr]
  refine ⟨fun w hw => ?_, ?_, ?_⟩
  · rw [State.deliver_decode_readLoc_hard _ _ hw, State.deliver_decode_readLoc_hard _ _ hw]
  · rw [State.deliver_decode_score, State.deliver_decode_score]
  · rw [State.deliver_decode_itersRun, State.deliver_decode_itersRun]

end Sys2Proof.Machine
end

section
/-!
PROOF. The guard of the probability-domain engines (42_decode_prob.md R203 to R205).
-/
namespace Sys2Proof.Machine

/-- The two encodings that compare equal to 0 (42_decode_prob.md R205). -/
theorem F64.eq_zero_of_signed_zero {x : F64} (h : x = ⟨0x0000000000000000#64⟩ ∨ x = ⟨0x8000000000000000#64⟩) :
    x.eq F64.zero = true := by
  rcases h with rfl | rfl <;> decide

/-- The guard of `HD_PROB` and `VN_PROB`: `q1` does not enter. -/
theorem guardedRatio_of_signed_zero {q : F64 × F64}
    (h : q.1 = ⟨0x0000000000000000#64⟩ ∨ q.1 = ⟨0x8000000000000000#64⟩) : guardedRatio q = F64.one :=
  if_pos (F64.eq_zero_of_signed_zero h)

/-- A ratio of 1.0 is above the threshold of R203. -/
theorem F64.one_le_half_eq_false : F64.one.le F64.half = false := by decide

/-- Settles O23: both engines end in the guarded ratio of their products, and 1.0 decides 0. -/
theorem zeroGuard : Obligations.ZeroGuard := by
  intro t p e i
  refine ⟨fun j1 hq => guardedRatio_of_signed_zero hq, fun hq => ?_⟩
  have hone : guardedRatio (probProducts t (p.getD i F64.zero) e i (col t i)) = F64.one :=
    guardedRatio_of_signed_zero hq
  exact ⟨hone, by rw [hdProb, hone, F64.one_le_half_eq_false]⟩

end Sys2Proof.Machine
end

section
/-!
PROOF. The tanh approximator is odd (44_tanh.md R242). Rounding keeps the sign apart from the magnitude, so finite
operands with their signs flipped give the same result with its sign flipped. That leaves the one result a flipped sign
does not fit, a NaN: up to 7.6 in magnitude the numerator and the denominator stay finite and the denominator is not
zero, so their quotient is no NaN.
-/
namespace Sys2Proof

/-! ### The fields of an encoding -/

theorem F64.pack_neg (s : Bool) (n : Nat) : (pack s n).neg = pack (!s) n := by
  refine congrArg F64.mk (BitVec.eq_of_getLsbD_eq fun i hi => ?_)
  have hmask : (0x8000000000000000#64) = BitVec.cons true (0#63) := by decide
  rw [hmask, pack, BitVec.getLsbD_xor]
  simp only [BitVec.getLsbD_cons]
  split_ifs <;> simp

@[simp] theorem F64.pack_sign (s : Bool) (n : Nat) : (pack s n).sign = s := by
  rw [sign, pack, BitVec.msb_cons]

theorem F64.pack_expField (s : Bool) {n : Nat} (h : n < 2 ^ 63) : (pack s n).expField = n / 2 ^ 52 := by
  have hs := s.toNat_le
  rw [expField, pack, BitVec.extractLsb'_toNat, BitVec.toNat_cons', BitVec.toNat_ofNat, Nat.shiftRight_eq_div_pow,
    Nat.shiftLeft_eq]
  omega

@[simp] theorem F64.neg_sign (x : F64) : x.neg.sign = !x.sign := by
  rw [sign, neg, BitVec.msb_xor, show (0x8000000000000000#64).msb = true by decide, Bool.xor_true, sign]

@[simp] theorem F64.neg_expField (x : F64) : x.neg.expField = x.expField := by
  rw [expField, neg, BitVec.extractLsb'_xor]
  simp [expField]

@[simp] theorem F64.neg_fracField (x : F64) : x.neg.fracField = x.fracField := by
  rw [fracField, neg, BitVec.extractLsb'_xor]
  simp [fracField]

@[simp] theorem F64.neg_neg (x : F64) : x.neg.neg = x := by
  simp [neg]

/-! ### The order under a flipped sign -/

@[simp] theorem F64.neg_isNaN (x : F64) : x.neg.isNaN = x.isNaN := by
  rw [isNaN, neg_expField, neg_fracField, isNaN]

@[simp] theorem F64.neg_orderKey (x : F64) : x.neg.orderKey = -x.orderKey := by
  have hmag : x.neg.bits.extractLsb' 0 63 = x.bits.extractLsb' 0 63 := by
    rw [neg, BitVec.extractLsb'_xor]
    simp
  rw [orderKey, orderKey, neg_sign, hmag]
  cases x.sign <;> simp [signedMant]

@[simp] theorem F64.neg_lt_neg (x y : F64) : x.neg.lt y.neg = y.lt x := by
  simp [lt, neg_isNaN, neg_orderKey, Bool.and_comm]

theorem F64.lt_eq_false_iff {x y : F64} (hx : x.isNaN = false) (hy : y.isNaN = false) :
    x.lt y = false ↔ y.orderKey ≤ x.orderKey := by
  simp [lt, hx, hy]

/-- The exponent field stands above the fraction in the magnitude that the order compares. -/
theorem F64.expField_eq_orderKey (x : F64) : x.expField = x.orderKey.natAbs / 2 ^ 52 := by
  have hmag : x.orderKey.natAbs = x.bits.toNat % 2 ^ 63 := by
    cases h : x.sign <;> simp [orderKey, signedMant, h] <;> omega
  rw [hmag, expField, BitVec.extractLsb'_toNat, Nat.shiftRight_eq_div_pow]
  omega

/-! ### Finite values below a power of two -/

/-- `x` is finite, of sign `s`, and below `2 ^ k` in magnitude. -/
def F64.BoundedBy (s : Bool) (k : ℕ) (x : F64) : Prop :=
  ∃ m e, x.value = .fin s m e ∧ (m : ℚ) * 2 ^ e < 2 ^ k

theorem F64.fracField_lt (x : F64) : x.fracField < 2 ^ 52 := (x.bits.extractLsb' 0 52).isLt

theorem F64.boundedBy_of_expField_le {x : F64} {k : ℕ} (h : x.expField ≤ k + 1023) (hk : k < 1024) :
    x.BoundedBy x.sign (k + 1) := by
  have hfrac := x.fracField_lt
  have hlt {m : ℕ} {e : ℤ} (hm : m < 2 ^ 53) (he : e ≤ k - 52) : (m : ℚ) * 2 ^ e < 2 ^ (k + 1) := by
    calc (m : ℚ) * 2 ^ e < 2 ^ (53 : ℤ) * 2 ^ e := by gcongr; exact_mod_cast hm
      _ = 2 ^ (53 + e) := (zpow_add₀ two_ne_zero _ _).symm
      _ ≤ 2 ^ ((k + 1 : ℕ) : ℤ) := zpow_le_zpow_right₀ one_le_two (by push_cast; omega)
      _ = 2 ^ (k + 1) := zpow_natCast _ _
  by_cases hsub : x.expField = 0
  · refine ⟨x.fracField, -1074, ?_, hlt (by omega) (by omega)⟩
    rw [value, if_neg (by omega), if_pos hsub]
  · refine ⟨2 ^ 52 + x.fracField, x.expField - 1075, ?_, hlt (by omega) (by omega)⟩
    rw [value, if_neg (by omega), if_neg hsub]

theorem F64.mant_ne_zero_of_expField_pos {x : F64} {s : Bool} {m : ℕ} {e : ℤ} (h : x.value = .fin s m e)
    (hpos : 0 < x.expField) : m ≠ 0 := by
  rw [value] at h
  split_ifs at h
  · omega
  · injection h
    omega

theorem F64.one_le_of_expField_ge {x : F64} {s : Bool} {m : ℕ} {e : ℤ} (h : x.value = .fin s m e)
    (hge : 1023 ≤ x.expField) : 1 ≤ (m : ℚ) * 2 ^ e := by
  rw [value] at h
  split_ifs at h
  · omega
  · injection h with _ hm he
    calc (1 : ℚ) = 2 ^ (52 : ℤ) * 2 ^ (-52 : ℤ) := by norm_num
      _ ≤ m * 2 ^ e := by
        gcongr
        · exact_mod_cast (by omega : 2 ^ 52 ≤ m)
        · exact one_le_two
        · omega

theorem F64.value_neg {x : F64} {s : Bool} {m : ℕ} {e : ℤ} (h : x.value = .fin s m e) :
    x.neg.value = .fin (!s) m e := by
  rw [value] at h ⊢
  rw [neg_expField, neg_fracField, neg_sign]
  split_ifs at h ⊢ <;> simp_all

/-! ### Rounding -/

theorem F64.round_neg (s : Bool) (n d : ℕ) : (round s n d).neg = round (!s) n d := by
  simp only [round]
  split_ifs <;> exact pack_neg _ _

theorem F64.roundScaled_neg (s : Bool) (n d : ℕ) (e : ℤ) : (roundScaled s n d e).neg = roundScaled (!s) n d e :=
  round_neg _ _ _

theorem F64.roundScaled_eq (s : Bool) (n d : ℕ) (e : ℤ) :
    roundScaled s n d e = round s (scale n d e).1 (scale n d e).2 := rfl

theorem F64.scale_snd_pos {n d : ℕ} (k : ℤ) (hd : 0 < d) : 0 < (scale n d k).2 := by
  rw [scale]
  split <;> simp [hd]

theorem F64.scale_zero_fst (d : ℕ) (k : ℤ) : (scale 0 d k).1 = 0 := by
  rw [scale]
  split <;> simp

theorem F64.scale_ratio (n d : ℕ) (k : ℤ) : ((scale n d k).1 : ℚ) / (scale n d k).2 = n / d * 2 ^ k := by
  rw [scale]
  split_ifs with h
  · obtain ⟨j, rfl⟩ := Int.eq_ofNat_of_zero_le h
    simp [mul_div_right_comm]
  · obtain ⟨j, hj⟩ := Int.eq_ofNat_of_zero_le (by omega : 0 ≤ -k)
    obtain rfl : k = -j := by omega
    simp [div_eq_mul_inv, mul_assoc, mul_comm]

theorem F64.scale_neg_snd_le_fst_iff (n : ℕ) {d : ℕ} (k : ℤ) (hd : 0 < d) :
    (scale n d (-k)).2 ≤ (scale n d (-k)).1 ↔ (2 : ℚ) ^ k ≤ n / d := by
  have hpos : (0 : ℚ) < (scale n d (-k)).2 := by exact_mod_cast scale_snd_pos (-k) hd
  rw [← Nat.cast_le (α := ℚ), ← one_le_div hpos, scale_ratio, zpow_neg, ← div_eq_mul_inv,
    one_le_div (zpow_pos two_pos k)]

theorem F64.floorLog2_eq (n : ℕ) {d : ℕ} (hd : 0 < d) :
    floorLog2 n d = if (2 : ℚ) ^ ((n.log2 : ℤ) - d.log2) ≤ n / d then (n.log2 : ℤ) - d.log2
      else (n.log2 : ℤ) - d.log2 - 1 :=
  if_congr (scale_neg_snd_le_fst_iff n _ hd) rfl rfl

/-- `2 ^ floorLog2 n d` begins the binade of `n / d`. -/
theorem F64.floorLog2_spec {n d : ℕ} (hn : n ≠ 0) (hd : 0 < d) :
    (2 : ℚ) ^ floorLog2 n d ≤ n / d ∧ (n / d : ℚ) < 2 ^ (floorLog2 n d + 1) := by
  have hd' : (0 : ℚ) < d := by exact_mod_cast hd
  have hnlo : (2 : ℚ) ^ (n.log2 : ℤ) ≤ n := by exact_mod_cast Nat.log2_self_le hn
  have hnhi : (n : ℚ) < 2 ^ (n.log2 + 1 : ℤ) := by exact_mod_cast Nat.lt_log2_self
  have hdlo : (2 : ℚ) ^ (d.log2 : ℤ) ≤ d := by exact_mod_cast Nat.log2_self_le hd.ne'
  have hdhi : (d : ℚ) < 2 ^ (d.log2 + 1 : ℤ) := by exact_mod_cast Nat.lt_log2_self
  have hlo : (2 : ℚ) ^ ((n.log2 : ℤ) - d.log2 - 1) ≤ n / d := by
    rw [sub_sub, zpow_sub₀ two_ne_zero]
    gcongr
  have hhi : (n / d : ℚ) < 2 ^ ((n.log2 : ℤ) - d.log2 + 1) := by
    rw [sub_add_eq_add_sub, zpow_sub₀ two_ne_zero]
    gcongr
  rw [floorLog2_eq n hd]
  split_ifs with h
  · exact ⟨h, hhi⟩
  · exact ⟨hlo, by simpa using h⟩

theorem F64.nearestEven_le {n d c : ℕ} (h : n < c * d) : nearestEven n d ≤ c := by
  have hdiv : n / d < c := Nat.div_lt_of_lt_mul (by rwa [mul_comm])
  rw [nearestEven]
  split_ifs <;> omega

theorem F64.round_of_ne_zero (s : Bool) {n : ℕ} (d : ℕ) (hn : n ≠ 0) :
    round s n d = pack s (min ((lastPlace n d + 1074).toNat * 2 ^ 52 +
      nearestEven (scale n d (-lastPlace n d)).1 (scale n d (-lastPlace n d)).2) infMag) :=
  if_neg hn

/-- The magnitude of a rounded value below `2 ^ k` is at most the encoding of `2 ^ k`: its last place is below that binade,
and its significand is at most `2 ^ 53`. From 1 up it is the encoding of a normal value. -/
theorem F64.round_eq_pack (s : Bool) {n d k : ℕ} (hd : 0 < d) (h : (n / d : ℚ) < 2 ^ k) (hk : k < 1024) :
    ∃ mag ≤ (k + 1023) * 2 ^ 52, round s n d = pack s mag ∧ (1 ≤ (n / d : ℚ) → 2 ^ 52 ≤ mag) := by
  by_cases hn : n = 0
  · exact ⟨0, Nat.zero_le _, if_pos hn, by simp [hn]⟩
  obtain ⟨hlo, hhi⟩ := floorLog2_spec hn hd
  have hfloor : floorLog2 n d < k := (zpow_lt_zpow_iff_right₀ one_lt_two).mp (hlo.trans_lt (by rwa [zpow_natCast]))
  have hsig : nearestEven (scale n d (-lastPlace n d)).1 (scale n d (-lastPlace n d)).2 ≤ 2 ^ 53 := by
    refine nearestEven_le ?_
    have hpos : (0 : ℚ) < (scale n d (-lastPlace n d)).2 := by exact_mod_cast scale_snd_pos _ hd
    rw [← Nat.cast_lt (α := ℚ), Nat.cast_mul, ← div_lt_iff₀ hpos, scale_ratio]
    calc (n / d : ℚ) * 2 ^ (-lastPlace n d) < 2 ^ (floorLog2 n d + 1) * 2 ^ (-lastPlace n d) := by gcongr
      _ = 2 ^ (floorLog2 n d + 1 + -lastPlace n d) := (zpow_add₀ two_ne_zero _ _).symm
      _ ≤ 2 ^ (53 : ℤ) := zpow_le_zpow_right₀ one_le_two (by rw [lastPlace]; omega)
      _ = ((2 ^ 53 : ℕ) : ℚ) := by norm_num
  refine ⟨_, ?_, round_of_ne_zero s d hn, fun hone => ?_⟩
  · have hplace : lastPlace n d + 1074 ≤ k + 1021 := by rw [lastPlace]; omega
    omega
  · have hfloor0 : 0 < floorLog2 n d + 1 := (one_lt_zpow_iff_right₀ one_lt_two).mp (hone.trans_lt hhi)
    have hplace : 1022 ≤ lastPlace n d + 1074 := by rw [lastPlace]; omega
    rw [infMag]
    omega

/-- Rounding moves a value below `2 ^ k` to `2 ^ k` at most. -/
theorem F64.boundedBy_round (s : Bool) {n d k : ℕ} (hd : 0 < d) (h : (n / d : ℚ) < 2 ^ k) (hk : k < 1024) :
    (round s n d).BoundedBy s (k + 1) := by
  obtain ⟨mag, hmag, hround, -⟩ := round_eq_pack s hd h hk
  have hbound : (pack s mag).BoundedBy (pack s mag).sign (k + 1) :=
    boundedBy_of_expField_le (by rw [pack_expField s (by omega)]; omega) hk
  rwa [pack_sign, ← hround] at hbound

theorem F64.boundedBy_roundScaled (s : Bool) {n d k : ℕ} {e : ℤ} (hd : 0 < d) (h : (n / d : ℚ) * 2 ^ e < 2 ^ k)
    (hk : k < 1024) : (roundScaled s n d e).BoundedBy s (k + 1) := by
  rw [← scale_ratio] at h
  exact boundedBy_round s (scale_snd_pos e hd) h hk

theorem F64.expField_roundScaled_pos (s : Bool) {n d k : ℕ} {e : ℤ} (hd : 0 < d) (h : (n / d : ℚ) * 2 ^ e < 2 ^ k)
    (hk : k < 1024) (hone : 1 ≤ (n / d : ℚ) * 2 ^ e) : 0 < (roundScaled s n d e).expField := by
  rw [← scale_ratio] at h hone
  obtain ⟨mag, hmag, hround, hlow⟩ := round_eq_pack s (scale_snd_pos e hd) h hk
  have hmag52 := hlow hone
  rw [roundScaled_eq, hround, pack_expField s (by omega)]
  omega

/-! ### Operations on bounded values -/

section
variable {x y : F64} {s t : Bool} {j k : ℕ}

theorem F64.BoundedBy.mono (h : x.BoundedBy s j) (hjk : j ≤ k) : x.BoundedBy s k := by
  obtain ⟨m, e, hx, hlt⟩ := h
  exact ⟨m, e, hx, hlt.trans_le (pow_le_pow_right₀ one_le_two hjk)⟩

theorem F64.boundedBy_ofNat {n : ℕ} (h : n < 2 ^ k) (hk : k < 1024) : (ofNat n).BoundedBy false (k + 1) :=
  boundedBy_round false one_pos (by rw [Nat.cast_one, div_one]; exact_mod_cast h) hk

theorem F64.BoundedBy.mul (hx : x.BoundedBy s j) (hy : y.BoundedBy t k) (hjk : j + k < 1024) :
    (x.mul y).BoundedBy (s ^^ t) (j + k + 1) := by
  obtain ⟨m₁, e₁, hx, hm₁⟩ := hx
  obtain ⟨m₂, e₂, hy, hm₂⟩ := hy
  have hprod : ((m₁ * m₂ : ℕ) / (1 : ℕ) : ℚ) * 2 ^ (e₁ + e₂) < 2 ^ (j + k) := by
    calc ((m₁ * m₂ : ℕ) / (1 : ℕ) : ℚ) * 2 ^ (e₁ + e₂) = (m₁ * 2 ^ e₁) * (m₂ * 2 ^ e₂) := by
          rw [zpow_add₀ two_ne_zero]; push_cast; ring
      _ < 2 ^ j * 2 ^ k := by gcongr
      _ = 2 ^ (j + k) := (pow_add _ _ _).symm
  rw [F64.mul, hx, hy]
  exact boundedBy_roundScaled _ one_pos hprod hjk

/-- The common exponent of a sum: both terms scaled to it keep their values. -/
theorem F64.aligned_sum (m₁ m₂ : ℕ) (e₁ e₂ : ℤ) :
    ((m₁ * 2 ^ (e₁ - min e₁ e₂).toNat + m₂ * 2 ^ (e₂ - min e₁ e₂).toNat : ℕ) / (1 : ℕ) : ℚ) * 2 ^ min e₁ e₂ =
      m₁ * 2 ^ e₁ + m₂ * 2 ^ e₂ := by
  have hshift (e : ℤ) (he : min e₁ e₂ ≤ e) : (2 : ℚ) ^ (e - min e₁ e₂).toNat * 2 ^ min e₁ e₂ = 2 ^ e := by
    rw [← zpow_natCast, Int.toNat_of_nonneg (by omega), ← zpow_add₀ two_ne_zero, sub_add_cancel]
  push_cast
  rw [div_one, add_mul, mul_assoc, mul_assoc, hshift e₁ (min_le_left _ _), hshift e₂ (min_le_right _ _)]

theorem F64.add_eq_addFin {m₁ m₂ : ℕ} {e₁ e₂ : ℤ} (hx : x.value = .fin s m₁ e₁) (hy : y.value = .fin t m₂ e₂) :
    x.add y = addFin s m₁ e₁ t m₂ e₂ := by
  rw [add, hx, hy]

theorem F64.addFin_false (m₁ m₂ : ℕ) (e₁ e₂ : ℤ) : addFin false m₁ e₁ false m₂ e₂ =
    roundScaled false (m₁ * 2 ^ (e₁ - min e₁ e₂).toNat + m₂ * 2 ^ (e₂ - min e₁ e₂).toNat) 1 (min e₁ e₂) := by
  simp only [addFin, signedMant, Bool.false_eq_true, if_false, Bool.and_self]
  norm_cast
  split_ifs with h
  · rw [h, roundScaled_eq, scale_zero_fst, round, if_pos rfl]
  · simp

/-- A sum of nonnegative values is its exact value rounded once: bounded with its terms, and at least 1 where the first
term is. -/
theorem F64.BoundedBy.add_eq_roundScaled (hx : x.BoundedBy false j) (hy : y.BoundedBy false k) :
    ∃ n e, x.add y = roundScaled false n 1 e ∧ ((n : ℕ) / (1 : ℕ) : ℚ) * 2 ^ e < 2 ^ (max j k + 1) ∧
      (1023 ≤ x.expField → 1 ≤ ((n : ℕ) / (1 : ℕ) : ℚ) * 2 ^ e) := by
  obtain ⟨m₁, e₁, hx, hm₁⟩ := hx.mono (le_max_left j k)
  obtain ⟨m₂, e₂, hy, hm₂⟩ := hy.mono (le_max_right j k)
  have hnonneg : (0 : ℚ) ≤ m₂ * 2 ^ e₂ := by positivity
  refine ⟨_, _, (add_eq_addFin hx hy).trans (addFin_false _ _ _ _), ?_, fun hge => ?_⟩ <;> rw [aligned_sum]
  · rw [pow_succ]
    linarith
  · have hone := one_le_of_expField_ge hx hge
    linarith

theorem F64.BoundedBy.add (hx : x.BoundedBy false j) (hy : y.BoundedBy false k) (hjk : max j k + 1 < 1024) :
    (x.add y).BoundedBy false (max j k + 2) := by
  obtain ⟨n, e, hadd, hlt, -⟩ := hx.add_eq_roundScaled hy
  exact hadd ▸ boundedBy_roundScaled false one_pos hlt hjk

theorem F64.BoundedBy.expField_add_pos (hx : x.BoundedBy false j) (hge : 1023 ≤ x.expField) (hy : y.BoundedBy false k)
    (hjk : max j k + 1 < 1024) : 0 < (x.add y).expField := by
  obtain ⟨n, e, hadd, hlt, hone⟩ := hx.add_eq_roundScaled hy
  exact hadd ▸ expField_roundScaled_pos false one_pos hlt hjk (hone hge)

theorem F64.BoundedBy.neg_mul (hx : x.BoundedBy s j) (hy : y.BoundedBy t k) : x.neg.mul y = (x.mul y).neg := by
  obtain ⟨m₁, e₁, hx, -⟩ := hx
  obtain ⟨m₂, e₂, hy, -⟩ := hy
  rw [F64.mul, F64.mul, hx, hy, value_neg hx]
  simp only [roundScaled_neg, Bool.not_xor]

theorem F64.BoundedBy.neg_mul_neg (hx : x.BoundedBy s j) : x.neg.mul x.neg = x.mul x := by
  obtain ⟨m, e, hx, -⟩ := hx
  rw [F64.mul, F64.mul, hx, value_neg hx]
  simp

theorem F64.BoundedBy.neg_div (hx : x.BoundedBy s j) (hy : y.BoundedBy t k) (hpos : 0 < y.expField) :
    x.neg.div y = (x.div y).neg := by
  obtain ⟨m₁, e₁, hx, -⟩ := hx
  obtain ⟨m₂, e₂, hy, -⟩ := hy
  have hm₂ : m₂ ≠ 0 := mant_ne_zero_of_expField_pos hy hpos
  rw [F64.div, F64.div, hx, hy, value_neg hx]
  simp only [if_neg hm₂, roundScaled_neg, Bool.not_xor]

end

namespace Machine

/-! ### The approximator -/

theorem c7_6_orderKey : F64.c7_6.orderKey = 0x401E666666666666 := by decide

theorem lt_c7_6_neg_of_c7_6_lt {x : F64} (hx : x.isNaN = false) (h : F64.c7_6.lt x = true) :
    x.lt F64.c7_6.neg = false := by
  rw [F64.lt, Bool.and_eq_true, decide_eq_true_eq, c7_6_orderKey] at h
  rw [F64.lt_eq_false_iff hx (by decide), F64.neg_orderKey, c7_6_orderKey]
  omega

/-- Three bits before the point hold what the approximator does not saturate. -/
theorem boundedBy_of_not_saturated {x : F64} (hx : x.isNaN = false) (hlo : x.lt F64.c7_6.neg = false)
    (hhi : F64.c7_6.lt x = false) : x.BoundedBy x.sign 3 := by
  rw [F64.lt_eq_false_iff hx (by decide)] at hlo
  rw [F64.lt_eq_false_iff (by decide) hx] at hhi
  rw [F64.neg_orderKey, c7_6_orderKey] at hlo
  rw [c7_6_orderKey] at hhi
  exact F64.boundedBy_of_expField_le (by rw [F64.expField_eq_orderKey]; omega) (by decide)

/-- The denominator keeps clear of both ends: its sums stay far below overflow, and its last one begins with 135135. -/
theorem tanhDen_boundedBy {x2 : F64} (h : x2.BoundedBy false 7) : (tanhDen x2).BoundedBy false 50 ∧
    0 < (tanhDen x2).expField := by
  have h28 : (F64.ofNat 28).BoundedBy false 6 := F64.boundedBy_ofNat (by decide) (by decide)
  have h3150 : (F64.ofNat 3150).BoundedBy false 13 := F64.boundedBy_ofNat (by decide) (by decide)
  have h62370 : (F64.ofNat 62370).BoundedBy false 17 := F64.boundedBy_ofNat (by decide) (by decide)
  have h135135 : (F64.ofNat 135135).BoundedBy false 19 := F64.boundedBy_ofNat (by decide) (by decide)
  have hsum₁ := h3150.add (h28.mul h (by decide)) (by decide)
  have hsum₂ := h62370.add (h.mul hsum₁ (by decide)) (by decide)
  have hprod := h.mul hsum₂ (by decide)
  exact ⟨(h135135.add hprod (by decide)).mono (by decide), h135135.expField_add_pos (by decide) hprod (by decide)⟩

/-- The numerator is its argument times a bounded polynomial in the square. -/
theorem tanhNum_eq_mul {x2 : F64} (h : x2.BoundedBy false 7) : ∃ p : F64, p.BoundedBy false 50 ∧
    ∀ x, tanhNum x x2 = x.mul p := by
  have h378 : (F64.ofNat 378).BoundedBy false 10 := F64.boundedBy_ofNat (by decide) (by decide)
  have h17325 : (F64.ofNat 17325).BoundedBy false 16 := F64.boundedBy_ofNat (by decide) (by decide)
  have h135135 : (F64.ofNat 135135).BoundedBy false 19 := F64.boundedBy_ofNat (by decide) (by decide)
  have hsum₁ := h378.add h (by decide)
  have hsum₂ := h17325.add (h.mul hsum₁ (by decide)) (by decide)
  have hsum₃ := h135135.add (h.mul hsum₂ (by decide)) (by decide)
  exact ⟨_, hsum₃.mono (by decide), fun _ => rfl⟩

/-- The quotient changes sign with its argument: the denominator sees the square only, and no NaN arises. -/
theorem tanh_quotient_neg {x : F64} (h : x.BoundedBy x.sign 3) :
    (tanhNum x.neg (x.neg.mul x.neg)).div (tanhDen (x.neg.mul x.neg)) =
      ((tanhNum x (x.mul x)).div (tanhDen (x.mul x))).neg := by
  have hsquare : (x.mul x).BoundedBy false 7 := by simpa using h.mul h (by decide)
  obtain ⟨p, hp, hnum⟩ := tanhNum_eq_mul hsquare
  obtain ⟨hden, hpos⟩ := tanhDen_boundedBy hsquare
  rw [h.neg_mul_neg, hnum, hnum, h.neg_mul hp, (h.mul hp (by decide)).neg_div hden hpos]

/-- Settles O27: a flipped sign swaps the two saturation tests, and between them flips the sign of the quotient. -/
theorem tanhOdd : Obligations.TanhOdd := by
  intro x hx
  have hlo : x.neg.lt F64.c7_6.neg = F64.c7_6.lt x := F64.neg_lt_neg x F64.c7_6
  have hhi : F64.c7_6.lt x.neg = x.lt F64.c7_6.neg := by rw [← F64.neg_lt_neg, F64.neg_neg]
  rw [tanhApprox, tanhApprox, hlo, hhi]
  by_cases habove : F64.c7_6.lt x = true
  · rw [if_pos habove, lt_c7_6_neg_of_c7_6_lt hx habove, if_pos habove]
    rfl
  by_cases hbelow : x.lt F64.c7_6.neg = true
  · rw [if_neg habove, if_pos hbelow, if_pos hbelow, F64.neg_neg]
  · rw [if_neg habove, if_neg hbelow, if_neg hbelow, if_neg habove]
    exact tanh_quotient_neg (boundedBy_of_not_saturated hx (by simpa using hbelow) (by simpa using habove))

end Machine

end Sys2Proof
end

section
/-!
PROOF. The CRC as a remainder over GF(2) (45_crc14.md R257, R258). The sweep keeps a scratch congruent modulo the generator
and clears its leading bits, and only one sequence of 14 bits is congruent to a given one; R258 follows from that.
-/
namespace Sys2Proof.Machine
open Polynomial

/-! ### Bit sequences as polynomials -/

theorem bitPolynomial_append_singleton (bits : List Bool) (b : Bool) :
    bitPolynomial (bits ++ [b]) = bitPolynomial bits * X + (if b then 1 else 0) := by
  rw [bitPolynomial, List.foldl_append]
  rfl

/-- The bits before others are shifted past them. -/
theorem bitPolynomial_append (a b : List Bool) :
    bitPolynomial (a ++ b) = bitPolynomial a * X ^ b.length + bitPolynomial b := by
  induction b using List.reverseRecOn with
  | nil => simp [bitPolynomial]
  | append_singleton b c ih =>
    rw [← List.append_assoc, bitPolynomial_append_singleton, bitPolynomial_append_singleton, ih, List.length_append,
      List.length_singleton]
    ring

theorem bitPolynomial_cons (b : Bool) (bits : List Bool) :
    bitPolynomial (b :: bits) = (if b then 1 else 0) * X ^ bits.length + bitPolynomial bits := by
  rw [← List.singleton_append, bitPolynomial_append]
  simp [bitPolynomial]

@[simp] theorem bitPolynomial_replicate_false (n : Nat) : bitPolynomial (List.replicate n false) = 0 := by
  induction n with
  | zero => rfl
  | succ n ih => rw [List.replicate_succ', bitPolynomial_append_singleton, ih]; simp

theorem bitPolynomial_zipWith_xor {a b : List Bool} (h : a.length = b.length) :
    bitPolynomial (List.zipWith xor a b) = bitPolynomial a + bitPolynomial b := by
  induction a generalizing b with
  | nil => rw [List.length_eq_zero_iff.mp h.symm]; simp [bitPolynomial]
  | cons x a ih =>
    obtain ⟨y, b, rfl⟩ := List.exists_cons_of_length_eq_add_one h.symm
    have hlen : a.length = b.length := Nat.succ.inj h
    have hbit : (if xor x y then (1 : (ZMod 2)[X]) else 0) = (if x then 1 else 0) + (if y then 1 else 0) := by
      cases x <;> cases y <;> simp [CharTwo.add_self_eq_zero]
    rw [List.zipWith_cons_cons, bitPolynomial_cons, bitPolynomial_cons, bitPolynomial_cons, ih hlen, hbit,
      List.length_zipWith, ← hlen, Nat.min_self]
    ring

theorem degree_bitPolynomial_lt (bits : List Bool) : (bitPolynomial bits).degree < bits.length := by
  induction bits with
  | nil => simp [bitPolynomial]
  | cons b bits ih =>
    have hlt : (bits.length : WithBot ℕ) < (b :: bits).length := by exact_mod_cast Nat.lt_succ_self _
    rw [bitPolynomial_cons]
    refine (degree_add_le _ _).trans_lt (max_lt ?_ (ih.trans hlt))
    cases b with
    | false => rw [if_neg Bool.false_ne_true, zero_mul, degree_zero]; exact WithBot.bot_lt_coe _
    | true => rwa [if_pos rfl, one_mul, degree_X_pow]

/-- The first bit is the highest coefficient, so it decides the degree (45_crc14.md R257). -/
theorem degree_bitPolynomial_cons_eq_iff (b : Bool) (bits : List Bool) :
    (bitPolynomial (b :: bits)).degree = bits.length ↔ b = true := by
  have hlt := degree_bitPolynomial_lt bits
  rw [bitPolynomial_cons]
  cases b with
  | false => simpa using hlt.ne
  | true =>
    rw [if_pos rfl, one_mul, degree_add_eq_left_of_degree_lt (by rwa [degree_X_pow]), degree_X_pow]
    simp

theorem eq_of_bitPolynomial_eq {a b : List Bool} (hlen : a.length = b.length)
    (h : bitPolynomial a = bitPolynomial b) : a = b := by
  induction a generalizing b with
  | nil => exact (List.length_eq_zero_iff.mp hlen.symm).symm
  | cons x a ih =>
    obtain ⟨y, b, rfl⟩ := List.exists_cons_of_length_eq_add_one hlen.symm
    have hlen' : a.length = b.length := Nat.succ.inj hlen
    obtain rfl : x = y := Bool.eq_iff_iff.mpr (by
      rw [← degree_bitPolynomial_cons_eq_iff x a, ← degree_bitPolynomial_cons_eq_iff y b, h, hlen'])
    rw [bitPolynomial_cons, bitPolynomial_cons, hlen'] at h
    rw [ih hlen' (add_left_cancel h)]

/-! ### Congruence modulo the generator -/

/-- Two sequences whose polynomials leave the same remainder by the generator. -/
def CrcCongr (a b : List Bool) : Prop := bitPolynomial crcGen ∣ bitPolynomial a - bitPolynomial b

theorem CrcCongr.refl (a : List Bool) : CrcCongr a a := by
  rw [CrcCongr, sub_self]
  exact dvd_zero _

theorem CrcCongr.symm {a b : List Bool} (h : CrcCongr a b) : CrcCongr b a := dvd_sub_comm.mp h

theorem CrcCongr.trans {a b c : List Bool} (hab : CrcCongr a b) (hbc : CrcCongr b c) : CrcCongr a c := by
  rw [CrcCongr, ← sub_add_sub_cancel _ (bitPolynomial b)]
  exact dvd_add hab hbc

/-- A remainder is unique: the generator has degree 14, above that of a difference of two 14-bit sequences. -/
theorem CrcCongr.eq {a b : List Bool} (h : CrcCongr a b) (ha : a.length = 14) (hb : b.length = 14) : a = b := by
  refine eq_of_bitPolynomial_eq (ha.trans hb.symm) (sub_eq_zero.mp (eq_zero_of_dvd_of_degree_lt h ?_))
  have hgen : (bitPolynomial crcGen).degree = (14 : ℕ) := (degree_bitPolynomial_cons_eq_iff true _).mpr rfl
  rw [hgen]
  exact (degree_sub_le _ _).trans_lt (max_lt (ha ▸ degree_bitPolynomial_lt a) (hb ▸ degree_bitPolynomial_lt b))

/-! ### The sweep -/

@[simp] theorem xorGen_length (scr : List Bool) (i : Nat) : (xorGen scr i).length = scr.length :=
  List.length_mapIdx

@[simp] theorem crcStep_length (scr : List Bool) (i : Nat) : (crcStep scr i).length = scr.length := by
  rw [crcStep]
  split <;> simp

theorem crcSweep_succ (n : Nat) (scr : List Bool) : crcSweep (n + 1) scr = crcStep (crcSweep n scr) n := by
  rw [crcSweep, List.range_succ, List.foldl_append]
  rfl

@[simp] theorem crcSweep_length (n : Nat) (scr : List Bool) : (crcSweep n scr).length = scr.length := by
  induction n with
  | zero => rfl
  | succ n ih => rw [crcSweep_succ, crcStep_length, ih]

/-- The generator at position `i`, followed by `m` zeros. -/
def genAt (i m : Nat) : List Bool := List.replicate i false ++ (crcGen ++ List.replicate m false)

@[simp] theorem genAt_length (i m : Nat) : (genAt i m).length = i + 15 + m := by
  have hgen : crcGen.length = 15 := rfl
  simp [genAt, hgen, Nat.add_assoc]

theorem genAt_getElem {i m k : Nat} (h : k < (genAt i m).length) :
    (genAt i m)[k] = if i ≤ k ∧ k < i + 15 then crcGen.getD (k - i) false else false := by
  have hgen : crcGen.length = 15 := rfl
  simp only [genAt, List.getElem_append, List.getElem_replicate, List.length_replicate]
  split_ifs
  · omega
  · rfl
  · rw [List.getD_eq_getElem]
  · omega
  · omega
  · rfl

theorem bitPolynomial_genAt (i m : Nat) : bitPolynomial (genAt i m) = bitPolynomial crcGen * X ^ m := by
  simp [genAt, bitPolynomial_append]

theorem xorGen_eq_zipWith {scr : List Bool} {i m : Nat} (h : scr.length = i + 15 + m) :
    xorGen scr i = List.zipWith xor scr (genAt i m) := by
  refine List.ext_getElem (by simp [h]) fun k hk _ => ?_
  simp only [xorGen, List.getElem_mapIdx, List.getElem_zipWith, genAt_getElem]
  split_ifs
  · rfl
  · rw [Bool.xor_false]

theorem crcCongr_crcStep {scr : List Bool} {i : Nat} (h : i + 15 ≤ scr.length) : CrcCongr scr (crcStep scr i) := by
  obtain ⟨m, hm⟩ := Nat.exists_eq_add_of_le h
  rw [crcStep]
  split
  · rw [CrcCongr, xorGen_eq_zipWith hm, bitPolynomial_zipWith_xor (by simp [hm]), bitPolynomial_genAt, sub_add_cancel_left]
    exact (dvd_mul_right _ _).neg_right
  · exact .refl scr

theorem crcStep_getD_of_lt (scr : List Bool) {i k : Nat} (h : k < i) :
    (crcStep scr i).getD k false = scr.getD k false := by
  rw [crcStep]
  split
  · simp [xorGen, List.getElem?_mapIdx, Nat.not_le.mpr h]
  · rfl

theorem crcStep_getD_self (scr : List Bool) (i : Nat) : (crcStep scr i).getD i false = false := by
  rw [crcStep]
  split_ifs with h
  · have hi : i < scr.length := by
      by_contra hle
      simp [Nat.le_of_not_lt hle] at h
    rw [List.getD_eq_getElem _ _ hi] at h
    simp [xorGen, hi, h, crcGen]
  · exact eq_false_of_ne_true h

theorem crcSweep_getD_of_lt (scr : List Bool) {n k : Nat} (h : k < n) : (crcSweep n scr).getD k false = false := by
  induction n with
  | zero => exact absurd h (Nat.not_lt_zero k)
  | succ n ih =>
    rw [crcSweep_succ]
    rcases Nat.lt_succ_iff_lt_or_eq.mp h with hlt | rfl
    · rw [crcStep_getD_of_lt _ hlt, ih hlt]
    · exact crcStep_getD_self _ k

theorem crcCongr_crcSweep {n : Nat} {scr : List Bool} (h : n + 14 ≤ scr.length) : CrcCongr scr (crcSweep n scr) := by
  induction n with
  | zero => exact .refl scr
  | succ n ih =>
    rw [crcSweep_succ]
    exact (ih (by omega)).trans (crcCongr_crcStep (by rw [crcSweep_length]; omega))

/-- The swept bits are zeros, so what follows them has the polynomial of the whole scratch. -/
theorem bitPolynomial_drop_crcSweep {n : Nat} {scr : List Bool} (h : n ≤ scr.length) :
    bitPolynomial ((crcSweep n scr).drop n) = bitPolynomial (crcSweep n scr) := by
  have htake : (crcSweep n scr).take n = List.replicate n false := by
    refine List.ext_getElem (by simpa using h) fun k hk _ => ?_
    obtain ⟨hkn, hkl⟩ := lt_min_iff.mp (List.length_take ▸ hk)
    rw [List.getElem_take, List.getElem_replicate, ← List.getD_eq_getElem _ false hkl, crcSweep_getD_of_lt scr hkn]
  conv_rhs => rw [← List.take_append_drop n (crcSweep n scr), htake, bitPolynomial_append]
  simp

/-- The sweep over all but the last 14 bits leaves the remainder there. -/
theorem crcCongr_drop_crcSweep {n : Nat} {scr : List Bool} (h : n + 14 ≤ scr.length) :
    CrcCongr scr ((crcSweep n scr).drop n) := by
  rw [CrcCongr, bitPolynomial_drop_crcSweep (by omega)]
  exact crcCongr_crcSweep h

/-! ### The CRC -/

theorem bitPolynomial_crcScratch (msg : List Bool) : bitPolynomial (crcScratch msg) = bitPolynomial msg * X ^ 14 := by
  rw [crcScratch, bitPolynomial_append, List.length_replicate, bitPolynomial_replicate_false, add_zero]

@[simp] theorem crcFn_length (msg : List Bool) : (crcFn msg).length = 14 := by
  simp [crcFn, crcScratch]

theorem crcCongr_crcFn (msg : List Bool) : CrcCongr (crcScratch msg) (crcFn msg) :=
  crcCongr_drop_crcSweep (by simp [crcScratch])

/-- Settles O31: the sweep leaves a congruent sequence of 14 bits. -/
theorem crcIsRemainder : Obligations.CrcIsRemainder := by
  intro msg
  obtain ⟨q, hq⟩ := crcCongr_crcFn msg
  refine ⟨crcFn_length msg, q, ?_⟩
  rw [← bitPolynomial_crcScratch, mul_comm q, ← hq, sub_add_cancel]

/-- The CRC is the one sequence of 14 bits congruent to the message and 14 zeros (45_crc14.md R257). -/
theorem crcFn_eq {msg out : List Bool} (hlen : out.length = 14) (h : CrcCongr (crcScratch msg) out) :
    crcFn msg = out :=
  ((crcCongr_crcFn msg).symm.trans h).eq (crcFn_length msg) hlen

theorem crcFn_replicate_false (n : Nat) : crcFn (List.replicate n false) = List.replicate 14 false := by
  refine crcFn_eq List.length_replicate ?_
  rw [CrcCongr, bitPolynomial_crcScratch, bitPolynomial_replicate_false, bitPolynomial_replicate_false, zero_mul, sub_zero]
  exact dvd_zero _

theorem crcFn_zipWith_xor {a b : List Bool} (h : a.length = b.length) :
    crcFn (List.zipWith xor a b) = List.zipWith xor (crcFn a) (crcFn b) := by
  have hcrc : (crcFn a).length = (crcFn b).length := by rw [crcFn_length, crcFn_length]
  refine crcFn_eq (by simp) ?_
  rw [CrcCongr, bitPolynomial_crcScratch, bitPolynomial_zipWith_xor h, bitPolynomial_zipWith_xor hcrc, add_mul,
    ← bitPolynomial_crcScratch, ← bitPolynomial_crcScratch, add_sub_add_comm]
  exact dvd_add (crcCongr_crcFn a) (crcCongr_crcFn b)

/-- A message followed by its CRC is a multiple of the generator: adding the remainder is subtracting it. -/
theorem crcCongr_append_crcFn (msg : List Bool) : CrcCongr (msg ++ crcFn msg) (List.replicate 14 false) := by
  rw [CrcCongr, bitPolynomial_append, crcFn_length, ← bitPolynomial_crcScratch, bitPolynomial_replicate_false, sub_zero,
    ← CharTwo.sub_eq_add]
  exact crcCongr_crcFn msg

theorem drop_crcSweep_append_crcFn (msg : List Bool) :
    (crcSweep msg.length (msg ++ crcFn msg)).drop msg.length = List.replicate 14 false := by
  have hsweep : CrcCongr (msg ++ crcFn msg) _ := crcCongr_drop_crcSweep (n := msg.length) (by simp)
  exact (hsweep.symm.trans (crcCongr_append_crcFn msg)).eq (by simp) List.length_replicate

theorem crcFn_replicate_false_append (z : Nat) (msg : List Bool) :
    crcFn (List.replicate z false ++ msg) = crcFn msg := by
  refine crcFn_eq (crcFn_length msg) ?_
  rw [CrcCongr, bitPolynomial_crcScratch, bitPolynomial_append, bitPolynomial_replicate_false, zero_mul, zero_add,
    ← bitPolynomial_crcScratch]
  exact crcCongr_crcFn msg

/-- Settles O30: each item is the uniqueness of the remainder. -/
theorem crcAlgebra : Obligations.CrcAlgebra :=
  ⟨crcFn_replicate_false, fun _ _ => crcFn_zipWith_xor, drop_crcSweep_append_crcFn, crcFn_replicate_false_append⟩

end Sys2Proof.Machine
end

section
/-!
PROOF. GJ_INVERT inverts (46_gauss_jordan.md R277). The right part of a row records which pivot rows have been added to it:
at each stage of the sweep a row is the sum of the original rows its right part names, with its own original row added until
its turn as pivot row. When the left part of the pivot rows has become the identity, their right part is the inverse.
-/
namespace Sys2Proof.Machine

/-! ### Sums over GF(2) -/

/-- The sum of the bits `f 0` to `f (n - 1)` over GF(2). -/
def xorSum (n : Nat) (f : Nat → Bool) : Bool := (List.range n).foldl (fun b q => b ^^ f q) false

@[simp] theorem xorSum_zero (f : Nat → Bool) : xorSum 0 f = false := rfl

theorem xorSum_succ (n : Nat) (f : Nat → Bool) : xorSum (n + 1) f = (xorSum n f ^^ f n) := by
  simp [xorSum, List.range_succ]

theorem xorSum_congr {n : Nat} {f g : Nat → Bool} (h : ∀ q < n, f q = g q) : xorSum n f = xorSum n g := by
  induction n with
  | zero => rfl
  | succ n ih => rw [xorSum_succ, xorSum_succ, ih fun q hq => h q (by omega), h n (by omega)]

theorem xorSum_xor (n : Nat) (f g : Nat → Bool) : xorSum n (fun q => f q ^^ g q) = (xorSum n f ^^ xorSum n g) := by
  induction n with
  | zero => rfl
  | succ n ih =>
    rw [xorSum_succ, xorSum_succ, xorSum_succ, ih]
    simp only [Bool.xor_assoc, Bool.xor_left_comm]

/-! ### What the operations of the sweep do to an entry -/

/-- `WHICH[k]`. -/
def Gj.label (g : Gj) (k : Nat) : Label := g.labels.getD k 0

@[simp] theorem swapAt_length {α : Type} (l : List α) (zero : α) (a b : Nat) :
    (swapAt l zero a b).length = l.length := by
  simp [swapAt]

theorem swapAt_getD {α : Type} (l : List α) (zero : α) {a b : Nat} (ha : a < l.length) (hb : b < l.length) (k : Nat) :
    (swapAt l zero a b).getD k zero = l.getD (Equiv.swap a b k) zero := by
  simp only [swapAt, List.getD_eq_getElem?_getD, List.getElem?_set, List.length_set, Equiv.swap_apply_def, eq_comm (b := k)]
  rcases eq_or_ne k a with rfl | hka
  · by_cases hkb : k = b <;> simp [hkb, ha, hb]
  · rcases eq_or_ne k b with rfl | hkb
    · simp [hka, hb]
    · simp [hka, hkb]

@[simp] theorem Gj.toggle_label (g : Gj) (r k : Nat) : (g.toggle r).label k = g.label k := rfl

@[simp] theorem Gj.eliminate_label (g : Gj) (r k : Nat) : (g.eliminate r).label k = g.label k := rfl

theorem Gj.swap_bit {g : Gj} {a b : Nat} (ha : a < g.rows.length) (hb : b < g.rows.length) (k c : Nat) :
    (g.swap a b).bit k c = g.bit (Equiv.swap a b k) c := by
  rw [Gj.bit, Gj.row, Gj.swap, swapAt_getD _ _ ha hb, Gj.bit, Gj.row]

theorem Gj.swap_label {g : Gj} {a b : Nat} (ha : a < g.labels.length) (hb : b < g.labels.length) (k : Nat) :
    (g.swap a b).label k = g.label (Equiv.swap a b k) :=
  swapAt_getD _ _ ha hb k

theorem Gj.toggle_bit {g : Gj} {r : Nat} (hr : r < g.rows.length) (h : r < 91) (k c : Nat) :
    (g.toggle r).bit k c = (g.bit k c ^^ decide (k = r ∧ c = 91 + r)) := by
  by_cases hk : k = r
  · subst hk
    simp [Gj.bit, Gj.row, Gj.toggle, hr, BitVec.getLsbD_twoPow, show 91 + k < 182 by omega, eq_comm]
  · simp [Gj.bit, Gj.row, Gj.toggle, Ne.symm hk, hk]

theorem Gj.eliminate_bit (g : Gj) (r k c : Nat) :
    (g.eliminate r).bit k c = (g.bit k c ^^ (decide (k ≠ r) && g.bit k r && g.bit r c)) := by
  have hrow : (g.eliminate r).row k = if k ≠ r ∧ g.bit k r then g.row k ^^^ g.row r else g.row k := by
    by_cases hk : k < g.rows.length <;> simp [Gj.eliminate, Gj.bit, Gj.row, hk]
  rw [Gj.bit, hrow]
  split_ifs with h
  · simp [Gj.bit, h.1, show (g.row k).getLsbD r = true from h.2]
  · have hnone : (decide (k ≠ r) && g.bit k r) = false := by simpa using h
    rw [hnone, Bool.false_and, Bool.xor_false, Gj.bit]

/-- A pivot found below is swapped up. -/
theorem Gj.pivot_cases {g p : Gj} {r : Nat} (h : g.pivot r = some p) :
    (p = g ∧ g.bit r r = true) ∨ ∃ k, r < k ∧ k < 174 ∧ g.bit k r = true ∧ p = g.swap r k := by
  rw [Gj.pivot] at h
  split_ifs at h with hr
  · exact .inl ⟨(Option.some.inj h).symm, hr⟩
  · obtain ⟨k, hk, rfl⟩ := Option.map_eq_some_iff.mp h
    have hmem := List.mem_range'_1.mp (List.mem_of_find?_eq_some hk)
    exact .inr ⟨k, by omega, by omega, (List.find?_some hk :), rfl⟩

/-! ### The invariant of the sweep -/

/-- The matrix after the pivot rows below `r`, where `orig L` is the original row with label `L`: the first `r` columns are
those of the identity, no right part names a later pivot row, and each row is the sum of the original rows its right part
names, with its own added if it has not been a pivot row. -/
structure GjSwept (orig : Label → Nat → Bool) (r : Nat) (g : Gj) : Prop where
  rows_length : g.rows.length = 174
  labels_length : g.labels.length = 174
  reduced : ∀ k < 174, ∀ c < r, g.bit k c = decide (c = k)
  unused : ∀ k < 174, ∀ q < 91, r ≤ q → g.bit k (91 + q) = false
  combines : ∀ k < 174, ∀ c < 91,
    g.bit k c = ((decide (r ≤ k) && orig (g.label k) c) ^^ xorSum r fun q => g.bit k (91 + q) && orig (g.label q) c)

section
variable {orig : Label → Nat → Bool} {r : Nat} {g : Gj}

/-- Two rows that have not been pivot rows may change places. -/
theorem GjSwept.swap (h : GjSwept orig r g) {k : Nat} (hr : r < 174) (hk : k < 174) (hrk : r ≤ k) :
    GjSwept orig r (g.swap r k) := by
  obtain ⟨hrows, hlabels, hreduced, hunused, hcombines⟩ := h
  have hbit := g.swap_bit (hrows ▸ hr) (hrows ▸ hk)
  have hlabel := g.swap_label (hlabels ▸ hr) (hlabels ▸ hk)
  have hlt (j : Nat) (hj : j < 174) : Equiv.swap r k j < 174 := by
    rw [Equiv.swap_apply_def]; split_ifs <;> omega
  have hfix (j : Nat) (hj : j < r) : Equiv.swap r k j = j :=
    Equiv.swap_apply_of_ne_of_ne (by omega) (by omega)
  have hle (j : Nat) : r ≤ Equiv.swap r k j ↔ r ≤ j := by
    rw [Equiv.swap_apply_def]; split_ifs <;> omega
  refine ⟨by simp [Gj.swap, hrows], by simp [Gj.swap, hlabels], fun j hj c hc => ?_, fun j hj q hq hrq => ?_,
    fun j hj c hc => ?_⟩
  · rw [hbit, hreduced _ (hlt j hj) c hc, decide_eq_decide, ← hfix c hc, Equiv.apply_eq_iff_eq, hfix c hc]
  · rw [hbit, hunused _ (hlt j hj) q hq hrq]
  · rw [hbit, hcombines _ (hlt j hj) c hc, hlabel, decide_eq_decide.mpr (hle j)]
    congr 1
    exact xorSum_congr fun q hq => by rw [hbit, hlabel, hfix q hq]

theorem GjSwept.pivot (h : GjSwept orig r g) {p : Gj} (hr : r < 174) (hp : g.pivot r = some p) :
    GjSwept orig r p ∧ p.bit r r = true := by
  rcases Gj.pivot_cases hp with ⟨rfl, hbit⟩ | ⟨k, hrk, hk, hbit, rfl⟩
  · exact ⟨h, hbit⟩
  · refine ⟨h.swap hr hk hrk.le, ?_⟩
    rw [Gj.swap_bit (h.rows_length ▸ hr) (h.rows_length ▸ hk), Equiv.swap_apply_left, hbit]

/-- The toggle moves the pivot row's own original row into its right part. -/
theorem GjSwept.combines_toggle (h : GjSwept orig r g) (hr : r < 91) {k c : Nat} (hk : k < 174) (hc : c < 91) :
    (g.toggle r).bit k c = ((decide (r + 1 ≤ k) && orig (g.label k) c) ^^
      xorSum (r + 1) fun q => (g.toggle r).bit k (91 + q) && orig (g.label q) c) := by
  have hbit := g.toggle_bit (r := r) (by rw [h.rows_length]; omega) hr
  have hsum : (xorSum r fun q => (g.toggle r).bit k (91 + q) && orig (g.label q) c) =
      xorSum r fun q => g.bit k (91 + q) && orig (g.label q) c :=
    xorSum_congr fun q hq => by rw [hbit]; simp [hq.ne]
  rw [xorSum_succ, hsum, hbit, hbit, h.unused k hk r hr le_rfl, h.combines k hk c hc]
  rcases lt_trichotomy k r with hkr | rfl | hkr
  · simp [hkr.ne, show ¬ r ≤ k by omega, show ¬ r + 1 ≤ k by omega]
  · simp [show c ≠ 91 + k by omega, Bool.xor_comm]
  · simp [hkr.ne', show r ≤ k by omega, show r + 1 ≤ k by omega]

/-- Adding the pivot row to another adds what the right part of the one names to what that of the other does. -/
theorem GjSwept.toggle_eliminate (h : GjSwept orig r g) (hr : r < 91) (hpivot : g.bit r r = true) :
    GjSwept orig (r + 1) ((g.toggle r).eliminate r) := by
  have htoggle := g.toggle_bit (r := r) (by rw [h.rows_length]; omega) hr
  have hleft (k c : Nat) (hc : c < 91) : (g.toggle r).bit k c = g.bit k c := by
    rw [htoggle]; simp [show c ≠ 91 + r by omega]
  have hbit := (g.toggle r).eliminate_bit r
  refine ⟨by simp [Gj.eliminate, Gj.toggle, h.rows_length], h.labels_length, fun k hk c hc => ?_,
    fun k hk q hq hrq => ?_, fun k hk c hc => ?_⟩
  · rw [hbit, hleft k c (by omega), hleft k r hr, hleft r c (by omega)]
    rcases Nat.lt_succ_iff_lt_or_eq.mp hc with hlt | rfl
    · simp [h.reduced k hk c hlt, h.reduced r (by omega) c hlt, hlt.ne]
    · by_cases hkc : k = c
      · simp [hkc, hpivot]
      · simp [hkc, Ne.symm hkc, hpivot]
  · have hzero (j : Nat) (hj : j < 174) : (g.toggle r).bit j (91 + q) = false := by
      rw [htoggle, h.unused j hj q hq (by omega)]; simp; omega
    rw [hbit, hzero k hk, hzero r (by omega)]
    simp
  · have hself := h.combines_toggle hr hk hc
    have hadded := h.combines_toggle hr (show r < 174 by omega) hc
    simp only [hbit]
    cases hadd : decide (k ≠ r) && (g.toggle r).bit k r with
    | false => simpa using hself
    | true =>
      simp only [Bool.true_and, Bool.and_xor_distrib_right, xorSum_xor, Gj.eliminate_label, Gj.toggle_label]
      rw [hself, hadded, decide_eq_false (by omega : ¬ r + 1 ≤ r), Bool.false_and, Bool.false_xor, Bool.xor_assoc]

theorem GjSwept.step (h : GjSwept orig r g) {g' : Gj} (hr : r < 91) (hstep : g.step r = some g') :
    GjSwept orig (r + 1) g' := by
  obtain ⟨p, hp, rfl⟩ := Option.map_eq_some_iff.mp hstep
  obtain ⟨hswept, hbit⟩ := h.pivot (by omega) hp
  exact hswept.toggle_eliminate hr hbit

/-- A sweep that finds every pivot ends with all pivot rows done. -/
theorem GjSwept.sweep (h : GjSwept orig r g) {n : Nat} (hn : r + n = 91) :
    ∃ gr g' failed, gjSweep n r g = .gjInvert gr g'.rows g'.labels failed ∧
      (failed = false → GjSwept orig 91 g') := by
  induction n generalizing r g with
  | zero => exact ⟨r, g, false, rfl, fun _ => hn ▸ h⟩
  | succ n ih =>
    rw [gjSweep]
    cases hstep : g.step r with
    | none => exact ⟨r, g, true, rfl, by simp⟩
    | some g' => exact ih (h.step (by omega) hstep) (by omega)

end

/-! ### The command -/

/-- The matrix and labels that stand in the buffers. -/
def State.gj (s : State) : Gj := ⟨s.gjRows, s.labels⟩

theorem State.gj_bit (s : State) {k : Nat} (h : k < 174) (c : Nat) : s.gj.bit k c = (s.gjRow k).getLsbD c := by
  simp [Gj.bit, Gj.row, State.gj, State.gjRows, h]

/-- `A0` of 46_gauss_jordan.md R277. -/
def State.labelledRow (s : State) (l : Label) (c : Nat) : Bool := (s.gjRow (s.labels.idxOf l)).getLsbD c

/-- Before the first pivot row every row is its own original row. -/
theorem State.gjSwept_gj (s : State) (hright : ∀ k < 174, ∀ q < 91, (s.gjRow k).getLsbD (91 + q) = false)
    (hnodup : s.labels.Nodup) : GjSwept s.labelledRow 0 s.gj := by
  have hlen : s.labels.length = 174 := by simp [State.labels]
  refine ⟨by simp [State.gj, State.gjRows], hlen, by simp, fun k hk q hq _ => ?_, fun k hk c _ => ?_⟩
  · rw [s.gj_bit hk, hright k hk q hq]
  · have hidx : s.labels.idxOf (s.gj.label k) = k := by
      rw [Gj.label, State.gj, List.getD_eq_getElem _ _ (by rw [hlen]; exact hk), hnodup.idxOf_getElem]
    simp [s.gj_bit hk, State.labelledRow, hidx]

theorem State.gj_deliver (s : State) (gr : Nat) {g : Gj} (hrows : g.rows.length = 174) (hlabels : g.labels.length = 174) :
    (s.deliver (.gjInvert gr g.rows g.labels false)).gj = g := by
  have hmem : (s.deliver (.gjInvert gr g.rows g.labels false)).mem = (s.writeGj g.rows g.labels).mem := by
    rw [State.deliver_mem, State.writeOutputs_gjDone_mem]
  rw [State.gj, State.gjRows_congr hmem, State.labels_congr hmem, State.gjRows_writeGj _ _ _ hrows,
    State.labels_writeGj _ _ _ hlabels]

theorem State.gjOk_deliver (s : State) (gr : Nat) (rows : List GjRow) (labels : List Label) (failed : Bool) :
    (s.deliver (.gjInvert gr rows labels failed)).gjOk = !failed := by
  cases failed <;> simp [State.deliver, State.writeOutputs]

/-- A GJ_INVERT that succeeds leaves a swept matrix in the buffers. -/
theorem gjSwept_of_exec {s t : State} (hready : Ready .gjInvert s) (hexec : exec .gjInvert s = .next t)
    (hok : t.gjOk = true) (hright : ∀ k < 174, ∀ q < 91, (s.gjRow k).getLsbD (91 + q) = false)
    (hnodup : s.labels.Nodup) : GjSwept s.labelledRow 91 t.gj := by
  obtain ⟨gr, g, failed, hwork, hswept⟩ := (s.gjSwept_gj hright hnodup).sweep (n := 91) rfl
  rw [exec_ready hready, finalWork, ← State.gj, hwork] at hexec
  cases hexec
  rw [State.gjOk_deliver, Bool.not_eq_true'] at hok
  subst hok
  have hdone := hswept rfl
  rwa [State.gj_deliver _ _ hdone.rows_length hdone.labels_length]

/-- Settles O33: in a swept matrix the left part is the identity above zeros, and each row the sum its right part names. -/
theorem gjInverts : Obligations.GjInverts := by
  intro s t hready hexec hok hright hnodup
  have hswept := gjSwept_of_exec hready hexec hok hright hnodup
  have hleft (k : Nat) (hk : k < 174) (c : Nat) (hc : c < 91) : (t.gjRow k).getLsbD c = decide (c = k) := by
    rw [← t.gj_bit hk, hswept.reduced k hk c hc]
  have hsum (k : Nat) (hk : k < 174) (c : Nat) (hc : c < 91) : decide (c = k) =
      ((decide (91 ≤ k) && s.labelledRow (t.gj.label k) c) ^^
        xorSum 91 fun q => (t.gjRow k).getLsbD (91 + q) && s.labelledRow (t.gj.label q) c) := by
    simpa only [hswept.reduced k hk c hc, t.gj_bit hk] using hswept.combines k hk c hc
  refine ⟨fun r hr => hleft r (by omega), fun k h91 hk c hc => ?_, fun r hr c hc => ?_, fun k h91 hk c hc => ?_⟩
  · rw [hleft k hk c hc, decide_eq_false (by omega)]
  · rw [hsum r (by omega) c hc, decide_eq_false (by omega : ¬ 91 ≤ r), Bool.false_and, Bool.false_xor]
    rfl
  · have h := hsum k hk c hc
    rw [decide_eq_false (by omega : ¬ c = k), decide_eq_true h91, Bool.true_and, eq_comm] at h
    exact bne_eq_false_iff_eq.mp h

end Sys2Proof.Machine
end

section
/-!
PROOF. Accesses that are turned away (60_exceptions.md R302, R303): a malformed, unmapped or read-only access, and a write
to `CMD` or a buffer while a command runs.
-/
namespace Sys2Proof.Machine

/-! ### Accesses that name no location -/

/-- The location `locate` finds at an offset stands there: branch by branch, the registers first, then the arrays in
rising order. -/
theorem locate_eq_some {off : Nat} {l : Loc} (h : locate off = some l) : l.InBounds ∧ l.offset = off := by
  rw [locate] at h
  obtain ⟨_, h⟩ | ⟨_, h⟩ := ite_eq_iff.mp h
  · cases h
  iterate 13
    obtain ⟨hoff, h⟩ | ⟨_, h⟩ := ite_eq_iff.mp h
    · cases h
      exact ⟨trivial, hoff.symm⟩
  iterate 2
    obtain ⟨_, h⟩ | ⟨_, h⟩ := ite_eq_iff.mp h
    · cases h
      simp only [Loc.InBounds, Loc.offset]
      omega
  obtain ⟨_, h⟩ | ⟨_, h⟩ := ite_eq_iff.mp h
  · cases h
    simp only [Loc.InBounds, Loc.offset, highBy, beq_iff_eq]
    split <;> omega
  obtain ⟨_, h⟩ | ⟨_, h⟩ := ite_eq_iff.mp h
  · cases h
    simp only [Loc.InBounds, Loc.offset]
    omega
  obtain ⟨_, h⟩ | ⟨_, h⟩ := ite_eq_iff.mp h
  · obtain ⟨_, h⟩ := Option.ite_none_right_eq_some.mp h
    cases h
    simp only [Loc.InBounds, Loc.offset]
    omega
  iterate 2
    obtain ⟨_, h⟩ | ⟨_, h⟩ := ite_eq_iff.mp h
    · cases h
      simp only [Loc.InBounds, Loc.offset]
      omega
  cases h

/-- An access that reaches a location has all four lanes, is aligned, and the location stands at its offset. -/
theorem target_eq_some {off : Offset} {lanes : BitVec 4} {l : Loc} (h : target off lanes = some l) :
    lanes = 0xF ∧ off.toNat % 4 = 0 ∧ l ∈ windowLocs ∧ l.offset = off.toNat := by
  obtain ⟨hform, hlocate⟩ := Option.ite_none_right_eq_some.mp h
  obtain ⟨hbounds, hoff⟩ := locate_eq_some hlocate
  simp only [wellFormedAccess, Bool.and_eq_true, beq_iff_eq] at hform
  exact ⟨hform.1, hform.2, (mem_windowLocs_iff l).mpr hbounds, hoff⟩

theorem target_eq_none {off : Offset} {lanes : BitVec 4}
    (h : lanes ≠ 0xF ∨ off.toNat % 4 ≠ 0 ∨ ∀ l ∈ windowLocs, l.offset ≠ off.toNat) : target off lanes = none := by
  refine Option.eq_none_iff_forall_ne_some.mpr fun l ht => ?_
  obtain ⟨hlanes, halign, hmem, hoff⟩ := target_eq_some ht
  rcases h with h | h | h
  · exact h hlanes
  · exact h halign
  · exact h l hmem hoff

theorem hostRead_of_target_eq_none {off : Offset} {lanes : BitVec 4} (h : target off lanes = none) (s : State) :
    hostRead off lanes s = .next ((s.raise .badAccess).answer 0) := by
  rw [hostRead, h]

theorem hostWrite_of_target_eq_none {off : Offset} {lanes : BitVec 4} (h : target off lanes = none) (v : Word)
    (prompt : Bool) (s : State) : hostWrite off lanes v prompt s = .next (s.raise .badAccess) := by
  rw [hostWrite, h]

/-! ### Host writes, by the kind of location -/

theorem readOnly_of_mem_registerLocs {l : Loc} (h : l ∈ registerLocs) (hctrl : l ≠ .ctrl) (hstatus : l ≠ .status)
    (hcmd : l ≠ .cmd) : l.readOnly = true := by
  cases l with
  | ctrl => exact absurd rfl hctrl
  | status => exact absurd rfl hstatus
  | cmd => exact absurd rfl hcmd
  | tanhX | hard | crcMsg | llr | which | gjM => simp [registerLocs] at h
  | _ => rfl

theorem isBuffer_of_mem_bufferLocs {l : Loc} (h : l ∈ bufferLocs) : l.isBuffer = true := by
  cases l with
  | tanhX | hard | crcMsg | llr | which | gjM => rfl
  | _ => simp [bufferLocs, hardLocs, llrLocs, whichLocs, gjLocs] at h

theorem hostWrite_of_readOnly {l : Loc} (hl : l ∈ windowLocs) (hro : l.readOnly = true) (v : Word) (prompt : Bool)
    (s : State) : hostWrite l.bus 0xF v prompt s = .next (s.raise .badAccess) := by
  simp only [hostWrite, target_bus hl, if_pos hro]

theorem hostWrite_of_isBuffer {l : Loc} (hl : l ∈ windowLocs) (hbuf : l.isBuffer = true) (v : Word) (prompt : Bool)
    (s : State) : hostWrite l.bus 0xF v prompt s = .next (s.writeBuffer l v) := by
  rw [hostWrite, target_bus hl]
  cases l with
  | tanhX | hard | crcMsg | llr | which | gjM => rfl
  | _ => cases hbuf

theorem hostWrite_cmd (v : Word) (prompt : Bool) (s : State) :
    hostWrite Loc.cmd.bus 0xF v prompt s = issue v prompt s := by
  rw [hostWrite, target_bus ((mem_windowLocs_iff .cmd).mpr trivial)]
  rfl

theorem hostWrite_status (v : Word) (prompt : Bool) (s : State) :
    hostWrite Loc.status.bus 0xF v prompt s = .next (s.clearStatus v) := by
  rw [hostWrite, target_bus ((mem_windowLocs_iff .status).mpr trivial)]
  rfl

theorem State.clearStatus_err_eq_none_or (s : State) (v : Word) :
    (s.clearStatus v).err = none ∨ (s.clearStatus v).err = s.err := by
  rw [State.clearStatus_err]
  exact ite_eq_or_eq _ _ _

/-- Settles O41: an access in one of the three forms reaches no location, and a register that is no control register is
read-only. -/
theorem badAccessRefused : Obligations.BadAccessRefused := by
  refine ⟨fun s off lanes h => ?_, fun s v prompt l hl hctrl hstatus hcmd => ?_, fun s v prompt => ?_⟩
  · have htarget := target_eq_none h
    exact ⟨hostRead_of_target_eq_none htarget s, fun v prompt => hostWrite_of_target_eq_none htarget v prompt s⟩
  · have hwindow : l ∈ windowLocs := List.mem_append_left _ hl
    exact hostWrite_of_readOnly hwindow (readOnly_of_mem_registerLocs hl hctrl hstatus hcmd) v prompt s
  · exact ⟨_, hostWrite_status v prompt s, s.clearStatus_err_eq_none_or v⟩

/-! ### Writes while a command runs -/

theorem issue_of_busy {s : State} (h : s.busy = true) (v : Word) (prompt : Bool) :
    issue v prompt s = .next (s.raise .busyAccess) := by
  rw [issue, if_pos h]

theorem State.writeBuffer_of_busy {s : State} (h : s.busy = true) (l : Loc) (v : Word) :
    s.writeBuffer l v = s.raise .busyAccess := by
  rw [State.writeBuffer, if_pos h]

/-- Settles O5: `issue` and `writeBuffer` both test for a running command first. -/
theorem busyWriteRefused : Obligations.BusyWriteRefused := by
  rintro s v prompt hbusy l (rfl | hl)
  · exact (hostWrite_cmd v prompt s).trans (issue_of_busy hbusy v prompt)
  · have hwindow : l ∈ windowLocs := List.mem_append_right _ hl
    rw [hostWrite_of_isBuffer hwindow (isBuffer_of_mem_bufferLocs hl), State.writeBuffer_of_busy hbusy]
    rfl

end Sys2Proof.Machine
end

section
/-!
PROOF. Command words an idle block turns away (60_exceptions.md R304, R305): no command, or a CRC14 that is too long.
-/
namespace Sys2Proof.Machine

/-! ### The fields of a command word as numbers -/

theorem opcOf_toNat (w : Word) : (opcOf w).toNat = w.toNat % 16 := by
  simp [opcOf]

theorem rsvOf_toNat (w : Word) : (rsvOf w).toNat = w.toNat / 16 % 4096 := by
  simp [rsvOf, Nat.shiftRight_eq_div_pow]

theorem argOf_toNat (w : Word) : (argOf w).toNat = w.toNat / 65536 := by
  have := w.isLt
  simp only [argOf, BitVec.extractLsb'_toNat, Nat.shiftRight_eq_div_pow]
  omega

theorem rsvOf_eq_zero_iff (w : Word) : rsvOf w = 0 ↔ w.toNat / 16 % 4096 = 0 := by
  rw [← rsvOf_toNat, ← BitVec.toNat_inj]
  rfl

theorem argOf_eq_zero_iff (w : Word) : argOf w = 0 ↔ w.toNat / 65536 = 0 := by
  rw [← argOf_toNat, ← BitVec.toNat_inj]
  rfl

/-! ### Words that are no command -/

theorem withoutArg_of_argOf_ne_zero {w : Word} (h : argOf w ≠ 0) (i : Instr) : withoutArg w i = .error .strayArg := by
  rw [withoutArg, if_neg h]

/-- A word with a reserved opcode, nonzero reserved bits or a stray argument is no command (30_encoding.md R134 to R136). -/
theorem decode_error_of_illegal {w : Word}
    (h : w.toNat % 16 = 0 ∨ 7 ≤ w.toNat % 16 ∨ w.toNat / 16 % 4096 ≠ 0 ∨
      ((w.toNat % 16 = 1 ∨ w.toNat % 16 = 5 ∨ w.toNat % 16 = 6) ∧ w.toNat / 65536 ≠ 0)) :
    ∃ e, decode w = .error e := by
  by_cases hrsv : rsvOf w = 0
  case neg => exact ⟨.reservedBits, by rw [decode, if_pos hrsv]⟩
  have hrsv' := (rsvOf_eq_zero_iff w).mp hrsv
  rw [decode, if_neg (not_not.mpr hrsv), opcOf_toNat]
  rcases h with hopc | hopc | hne | ⟨hopc, harg⟩
  · rw [hopc]
    exact ⟨_, rfl⟩
  · split
    case h_7 => exact ⟨_, rfl⟩
    all_goals omega
  · exact absurd hrsv' hne
  · have hstray := withoutArg_of_argOf_ne_zero (mt (argOf_eq_zero_iff w).mp harg)
    rcases hopc with hopc | hopc | hopc <;> rw [hopc] <;> exact ⟨_, hstray _⟩

theorem issue_of_decode_error {s : State} {v : Word} {e : DecodeError} (hidle : s.busy = false)
    (h : decode v = .error e) (prompt : Bool) : issue v prompt s = .next (s.raise .illegalCmd) := by
  simp [issue, hidle, h]

/-- Settles O3: such a word is no command, and an idle block records `ILLEGAL_CMD` for it. -/
theorem illegalWordRefused : Obligations.IllegalWordRefused := by
  intro s v prompt hidle hillegal
  obtain ⟨e, he⟩ := decode_error_of_illegal hillegal
  exact (hostWrite_cmd v prompt s).trans (issue_of_decode_error hidle he prompt)

/-! ### A CRC14 that is too long -/

theorem decode_crc14 {w : Word} (hopc : w.toNat % 16 = 4) (hrsv : w.toNat / 16 % 4096 = 0) :
    decode w = .ok (.crc14 (argOf w)) := by
  rw [decode, if_neg (not_not.mpr ((rsvOf_eq_zero_iff w).mpr hrsv)), opcOf_toNat, hopc]
  rfl

theorem acceptCommand_of_not_wellFormed {i : Instr} {s : State} (hidle : s.busy = false) (h : i.wellFormed = false)
    (run : State → Host.Outcome State Fault Refusal) : acceptCommand i run s = .next (s.raise .badArg) := by
  simp [acceptCommand, hidle, h]

/-- A command with a bad argument is turned away alike, prompt or not. -/
theorem issue_of_not_wellFormed {s : State} {v : Word} {i : Instr} (hidle : s.busy = false) (hv : decode v = .ok i)
    (h : i.wellFormed = false) (prompt : Bool) : issue v prompt s = .next (s.raise .badArg) := by
  have hexec : exec i s = .next (s.raise .badArg) := by
    rw [exec_eq_acceptCommand, acceptCommand_of_not_wellFormed hidle h]
  have hbegin : beginCommand i s = .next (s.raise .badArg) := acceptCommand_of_not_wellFormed hidle h _
  cases prompt <;> simp [issue, hidle, hv, hexec, hbegin]

theorem ready_decodeInstr {s : State} (hidle : s.busy = false) (h : ∀ l ∈ llrLocs, s.written l = true) (dom : Domain)
    (iters : BitVec 16) : Ready (decodeInstr dom iters) s := by
  cases dom <;> exact ⟨hidle, rfl, h⟩

/-- Settles O4: the word decodes and its length is not well formed; a decode has no such test of its budget. -/
theorem longCrcRefused : Obligations.LongCrcRefused := by
  refine ⟨fun s v prompt hidle hopc hrsv hlong => ?_, fun dom iters s hidle h => ready_decodeInstr hidle h dom iters⟩
  have hbad : (Instr.crc14 (argOf v)).wellFormed = false := by
    simp only [Instr.wellFormed, argOf_toNat, crcNMax, decide_eq_false_iff_not]
    omega
  exact (hostWrite_cmd v prompt s).trans (issue_of_not_wellFormed hidle (decode_crc14 hopc hrsv) hbad prompt)

end Sys2Proof.Machine
end

section
/-!
PROOF. The error record and `irq` (60_exceptions.md R301, R320, R321): an access that changes the error to another one
raises it and does nothing else.
-/
namespace Sys2Proof.Machine

/-! ### What an access does to the error -/

theorem exec_err {i : Instr} {s t : State} (h : exec i s = .next t) : t.err = s.err ∨ ∃ c, t = s.raise c := by
  rcases exec_next_cases h with ⟨_, rfl⟩ | ⟨_, _, rfl⟩ | ⟨_, rfl⟩
  · exact .inr ⟨_, rfl⟩
  · exact .inr ⟨_, rfl⟩
  · exact .inl (by rw [State.deliver_err, State.accept_err])

theorem beginCommand_err {i : Instr} {s t : State} (h : beginCommand i s = .next t) :
    t.err = s.err ∨ ∃ c, t = s.raise c := by
  rcases beginCommand_next_cases h with ⟨_, rfl⟩ | ⟨_, _, rfl⟩ | ⟨_, rfl⟩
  · exact .inr ⟨_, rfl⟩
  · exact .inr ⟨_, rfl⟩
  · exact .inl (s.accept_err i)

theorem issue_err {v : Word} {prompt : Bool} {s t : State} (h : issue v prompt s = .next t) :
    t.err = s.err ∨ ∃ c, t = s.raise c := by
  rcases issue_next_cases h with ⟨_, rfl⟩ | ⟨_, _, rfl⟩ | ⟨_, i, _, ⟨_, hrun⟩ | ⟨_, hbegin⟩⟩
  · exact .inr ⟨_, rfl⟩
  · exact .inr ⟨_, rfl⟩
  · exact exec_err hrun
  · exact beginCommand_err hbegin

theorem State.writeCtrl_err (s : State) (v : Word) : (s.writeCtrl v).err = none ∨ (s.writeCtrl v).err = s.err := by
  unfold State.writeCtrl
  split
  · exact .inl s.abandon.clearControl_err
  · exact .inr rfl

theorem State.writeBuffer_err (s : State) (l : Loc) (v : Word) :
    (s.writeBuffer l v).err = s.err ∨ ∃ c, s.writeBuffer l v = s.raise c := by
  unfold State.writeBuffer
  split
  · exact .inr ⟨_, rfl⟩
  · exact .inl (s.store_err l v)

theorem hostRead_err {off : Offset} {lanes : BitVec 4} {s t : State} (h : hostRead off lanes s = .next t) :
    t.err = s.err ∨ ∃ c, t = (s.raise c).answer 0 := by
  rcases hostRead_next_cases h with ⟨_, rfl⟩ | ⟨_, _, _, rfl⟩ | ⟨_, v, _, _, _, rfl⟩
  · exact .inr ⟨_, rfl⟩
  · exact .inl (by rw [State.answer_err, State.drawn_err])
  · exact .inl (s.answer_err v)

theorem hostWrite_err {off : Offset} {lanes : BitVec 4} {v : Word} {prompt : Bool} {s t : State}
    (h : hostWrite off lanes v prompt s = .next t) : t.err = none ∨ t.err = s.err ∨ ∃ c, t = s.raise c := by
  rcases hostWrite_next_cases h with ⟨_, rfl⟩ | ⟨_, rfl⟩ | ⟨_, rfl⟩ | ⟨_, hissue⟩ | ⟨l, _, _, rfl⟩
  · exact .inr (.inr ⟨_, rfl⟩)
  · exact (s.writeCtrl_err v).imp_right .inl
  · exact (s.clearStatus_err_eq_none_or v).imp_right .inl
  · exact .inr (issue_err hissue)
  · exact .inr (s.writeBuffer_err l v)

/-- Everything a host access can do to the error: clear it, leave it, or raise one and do nothing else. -/
theorem hostAccess_err {a : Access} {prompt : Bool} {s t : State} (h : hostAccess a prompt s = .next t) :
    t.err = none ∨ t.err = s.err ∨ ∃ c, t = s.raise c ∨ t = (s.raise c).answer 0 := by
  cases a with
  | read off lanes => exact .inr ((hostRead_err h).imp_right fun ⟨c, ht⟩ => ⟨c, .inr ht⟩)
  | write off lanes v =>
    exact (hostWrite_err h).imp_right fun h => h.imp_right fun ⟨c, ht⟩ => ⟨c, .inl ht⟩

/-! ### The first error is kept -/

theorem State.raise_of_errFlag_eq_false {s : State} (h : s.errFlag = false) (c : ErrCode) :
    s.raise c = { s with err := some c } := by
  have hnone : s.err = none := by simpa [State.errFlag] using h
  rw [State.raise, hnone, Option.getD_none]

theorem State.raise_of_errFlag {s : State} (h : s.errFlag = true) (c : ErrCode) : s.raise c = s := by
  obtain ⟨first, hfirst⟩ := Option.isSome_iff_exists.mp h
  rw [State.raise, hfirst, Option.getD_some, ← hfirst]

theorem State.raise_irq (s : State) (c : ErrCode) : (s.raise c).irq = s.ie := by
  simp [State.irq, State.errFlag]

/-- Settles O46: of the things an access can do to the error, only raising one leaves an error that was not there. -/
theorem firstErrorKept : Obligations.FirstErrorKept := by
  constructor
  · exact fun s c => ⟨fun h => State.raise_of_errFlag_eq_false h c, fun h => State.raise_of_errFlag h c, s.raise_irq c⟩
  · intro a prompt s t h hpresent hchanged
    rcases hostAccess_err h with hnone | hsame | ⟨c, rfl | rfl⟩
    · exact absurd hnone hpresent
    · exact absurd hsame hchanged
    · rfl
    · rfl

/-! ### No interrupt after a reset -/

theorem State.irq_of_ie_eq_false {s : State} (h : s.ie = false) : s.irq = false := by
  rw [State.irq, h, Bool.false_and]

/-- Settles O53: every reset clears `IE`. -/
theorem noInterruptAfterReset : Obligations.NoInterruptAfterReset := by
  refine ⟨State.irq_of_ie_eq_false rfl, fun s => ⟨State.irq_of_ie_eq_false rfl, State.irq_of_ie_eq_false ?_⟩⟩
  exact s.abandon.clearControl_ie

end Sys2Proof.Machine
end

section
/-!
PROOF. Hardware reset (70_reset_and_hazards.md R340): the values it leaves do not depend on what lies outside the block.
-/
namespace Sys2Proof.Machine

/-- A buffer word reads as the storage holds it. -/
theorem State.readLoc_of_isBuffer (s : State) {l : Loc} (h : l.isBuffer = true) :
    s.readLoc l = s.mem.readWord l.offset := by
  cases l with
  | tanhX | hard | crcMsg | llr | which | gjM => rfl
  | _ => cases h

/-- `STATUS` reads 0 on an idle block with neither `DONE` nor `ERR` set. -/
theorem State.statusWord_eq_zero {s : State} (hengine : s.engine = none) (hdone : s.done = false)
    (herr : s.err = none) : s.statusWord = 0 := by
  rw [State.statusWord, State.busy, State.errFlag, State.errCode, hengine, hdone, herr]
  rfl

/-- The tables, the level of `rst` and the model's own fields have no part in the reset values. -/
theorem resetValues_reset_with (rom : Tables) (rst : Bool) (turns : List Turn) (reads : List Word) (draws : Nat) :
    State.ResetValues { State.reset with rom, rst, turns, reads, draws } := by
  have htanhY (high : Bool) : wordOf64 ⟨0#64⟩ high = 0 := by cases high <;> decide
  refine ⟨rfl, rfl, rfl, congrArg some (State.statusWord_eq_zero rfl rfl rfl), rfl, rfl, rfl, rfl, rfl,
    congrArg some (htanhY false), congrArg some (htanhY true), fun l hl => ?_, rfl, rfl⟩
  rw [State.readLoc_of_isBuffer _ (isBuffer_of_mem_bufferLocs hl)]
  rfl

/-- The turn that asserts `rst` answers the reset values, whatever the state. -/
theorem step_assertRst {s : State} {rest : List Turn} (h : s.turns = .assertRst :: rest) :
    step s = .next { State.hardReset { s with turns := rest } with rst := true } := by
  rw [step, takeTurn, h]
  rfl

/-- Settles O51: both states are `State.reset` but for what has no part in the reset values. -/
theorem hardwareReset : Obligations.HardwareReset := by
  refine ⟨resetValues_reset_with _ _ _ _ _, rfl, fun s rest hturns => ?_⟩
  exact ⟨_, step_assertRst hturns, resetValues_reset_with _ _ _ _ _, rfl⟩

end Sys2Proof.Machine
end

section
/-!
PROOF. Soft reset (70_reset_and_hazards.md R342): what forgetting a word does to a host's reads, for one location, for a
list, and for the words of an abandoned command.
-/
namespace Sys2Proof.Machine

/-! ### Locations -/

theorem Loc.eq_of_offset_eq {l l' : Loc} (hl : l ∈ windowLocs) (hl' : l' ∈ windowLocs) (h : l.offset = l'.offset) :
    l = l' := by
  have hlocate := locate_offset ((mem_windowLocs_iff l).mp hl)
  rw [h, locate_offset ((mem_windowLocs_iff l').mp hl')] at hlocate
  exact (Option.some.inj hlocate).symm

theorem outputLocs_subset_windowLocs (i : Instr) : outputLocs i ⊆ windowLocs := by
  intro l hl
  rw [mem_windowLocs_iff]
  cases i with
  | check | crc14 =>
    cases List.mem_singleton.mp hl
    trivial
  | decodeProb | decodeLlr =>
    simp only [outputLocs, hardLocs, List.mem_append, List.mem_map, List.mem_range, List.mem_pair] at hl
    obtain ⟨w, hw, rfl⟩ | rfl | rfl := hl
    · exact hw
    all_goals trivial
  | gjInvert =>
    simp only [outputLocs, gjLocs, whichLocs, List.mem_append, List.mem_flatMap, List.mem_map, List.mem_range,
      List.mem_singleton] at hl
    obtain (⟨r, hr, w, hw, rfl⟩ | ⟨k, hk, rfl⟩) | rfl := hl
    · exact ⟨hr, hw⟩
    · exact hk
    · trivial
  | tanh => obtain rfl | rfl := List.mem_pair.mp hl <;> trivial

/-! ### Reads after one word was written -/

theorem State.readLoc_drawn (s : State) (l : Loc) : s.drawn.readLoc l = s.readLoc l := by
  cases l <;> rfl

theorem State.readLoc_setScore_of_ne (s : State) (v : BitVec 7) {l : Loc} (h : l ≠ .score) :
    (s.setScore v).readLoc l = s.readLoc l := by
  cases l with
  | score => exact absurd rfl h
  | _ => rfl

theorem State.readLoc_setItersRun_of_ne (s : State) (v : BitVec 16) {l : Loc} (h : l ≠ .itersRun) :
    (s.setItersRun v).readLoc l = s.readLoc l := by
  cases l with
  | itersRun => exact absurd rfl h
  | _ => rfl

theorem State.readLoc_setGjOk_of_ne (s : State) (v : Bool) {l : Loc} (h : l ≠ .gjOk) :
    (s.setGjOk v).readLoc l = s.readLoc l := by
  cases l with
  | gjOk => exact absurd rfl h
  | _ => rfl

theorem State.readLoc_setCrcOut_of_ne (s : State) (v : BitVec 14) {l : Loc} (h : l ≠ .crcOut) :
    (s.setCrcOut v).readLoc l = s.readLoc l := by
  cases l with
  | crcOut => exact absurd rfl h
  | _ => rfl

/-- The other word of a 64-bit value is kept when one is replaced. -/
theorem wordOf64_withWord64_of_ne (x : F64) {high high' : Bool} (v : Word) (h : high' ≠ high) :
    wordOf64 (withWord64 x high v) high' = wordOf64 x high' := by
  cases high <;> cases high'
  · exact absurd rfl h
  · exact BitVec.extractLsb'_append_eq_left
  · exact BitVec.extractLsb'_append_eq_right
  · exact absurd rfl h

theorem State.readLoc_setTanhY_of_ne (s : State) (high : Bool) (v : Word) {l : Loc} (h : l ≠ .tanhY high) :
    (s.setTanhY (withWord64 s.tanhY high v)).readLoc l = s.readLoc l := by
  cases l with
  | tanhY high' => exact congrArg some (wordOf64_withWord64_of_ne s.tanhY v fun heq => h (heq ▸ rfl))
  | _ => rfl

theorem State.readLoc_store_of_offset_ne (s : State) {l l' : Loc} (v : Word) (h : l'.offset ≠ l.offset) :
    (s.store l v).readLoc l' = s.readLoc l' := by
  cases l' with
  | tanhX | hard | crcMsg | llr | which | gjM => exact s.readWord_store_other l _ v h
  | _ => rfl

/-! ### Reads after words were forgotten -/

/-- Forgetting a word changes what no other location reads. -/
theorem State.readLoc_forget_of_ne (s : State) {l l' : Loc} (hl : l ∈ windowLocs) (hl' : l' ∈ windowLocs)
    (h : l' ≠ l) : (s.forget l).readLoc l' = s.readLoc l' := by
  have hoff : l'.offset ≠ l.offset := mt (Loc.eq_of_offset_eq hl' hl) h
  rw [← s.readLoc_drawn l']
  cases l with
  | score => exact s.drawn.readLoc_setScore_of_ne _ h
  | itersRun => exact s.drawn.readLoc_setItersRun_of_ne _ h
  | gjOk => exact s.drawn.readLoc_setGjOk_of_ne _ h
  | crcOut => exact s.drawn.readLoc_setCrcOut_of_ne _ h
  | tanhY high => exact s.drawn.readLoc_setTanhY_of_ne high _ h
  | hard | which | gjM => exact s.drawn.readLoc_store_of_offset_ne _ hoff
  | _ => exact (s.readLoc_drawn l').symm

/-- A word a command writes holds a value once it was forgotten, written before or not. -/
theorem State.isSome_readLoc_forget (s : State) {i : Instr} {l : Loc} (h : l ∈ outputLocs i) :
    ((s.forget l).readLoc l).isSome = true := by
  cases l with
  | hard | which | gjM => exact Option.isSome_of_eq_some (s.drawn.readWord_store_same _ _)
  | tanhX | crcMsg | llr => cases i <;> simp [outputLocs, hardLocs, gjLocs, whichLocs] at h
  | _ => rfl

theorem State.forgetAll_cons (s : State) (l : Loc) (ls : List Loc) :
    s.forgetAll (l :: ls) = (s.forget l).forgetAll ls := rfl

theorem State.readLoc_forgetAll_of_notMem (s : State) {ls : List Loc} {l : Loc} (hls : ls ⊆ windowLocs)
    (hl : l ∈ windowLocs) (h : l ∉ ls) : (s.forgetAll ls).readLoc l = s.readLoc l := by
  induction ls generalizing s with
  | nil => rfl
  | cons head tail ih =>
    obtain ⟨hhead, htail⟩ := List.cons_subset.mp hls
    obtain ⟨hne, hnotMem⟩ := List.ne_and_not_mem_of_not_mem_cons h
    rw [State.forgetAll_cons, ih _ htail hnotMem, s.readLoc_forget_of_ne hhead hl hne]

/-- Each of a list of forgotten output words holds a value: the one it got when it was forgotten last. -/
theorem State.isSome_readLoc_forgetAll (s : State) {i : Instr} {ls : List Loc} {l : Loc} (hls : ls ⊆ outputLocs i)
    (h : l ∈ ls) : ((s.forgetAll ls).readLoc l).isSome = true := by
  induction ls generalizing s with
  | nil => cases h
  | cons head tail ih =>
    have htail := (List.cons_subset.mp hls).2
    by_cases hmem : l ∈ tail
    · exact ih _ htail hmem
    · obtain rfl := (List.mem_cons.mp h).resolve_right hmem
      have hwindow := outputLocs_subset_windowLocs i
      rw [State.forgetAll_cons,
        State.readLoc_forgetAll_of_notMem _ (List.Subset.trans htail hwindow) (hwindow (hls h)) hmem]
      exact s.isSome_readLoc_forget (hls h)

/-! ### The soft reset -/

theorem hostWrite_ctrl (v : Word) (prompt : Bool) (s : State) :
    hostWrite Loc.ctrl.bus 0xF v prompt s = .next (s.writeCtrl v) := by
  rw [hostWrite, target_bus ((mem_windowLocs_iff .ctrl).mpr trivial)]
  rfl

theorem State.writeCtrl_of_srst (s : State) {v : Word} (h : v.getLsbD 1 = true) : s.writeCtrl v = s.softReset := by
  rw [State.writeCtrl, if_pos h]

theorem State.abandon_of_idle {s : State} (h : s.engine = none) : s.abandon = s := by
  rw [State.abandon, h]

theorem State.softReset_of_idle {s : State} (h : s.engine = none) :
    s.softReset = { s with ie := false, done := false, err := none, cmd := 0 } := by
  rw [State.softReset, State.abandon_of_idle h, State.clearControl, ← h]

theorem State.softReset_of_running {s : State} {r : Running} (h : s.engine = some r) :
    s.softReset = (s.forgetAll (outputLocs r.cmd)).clearControl := by
  rw [State.softReset, State.abandon, h]

theorem State.readLoc_clearControl_of_ne (s : State) {l : Loc} (hctrl : l ≠ .ctrl) (hstatus : l ≠ .status)
    (hcmd : l ≠ .cmd) : s.clearControl.readLoc l = s.readLoc l := by
  cases l with
  | ctrl => exact absurd rfl hctrl
  | status => exact absurd rfl hstatus
  | cmd => exact absurd rfl hcmd
  | _ => rfl

/-- Every location but the control registers that the abandoned command does not write reads as before. -/
theorem State.readLoc_softReset_of_notMem {s : State} {r : Running} {l : Loc} (hr : s.engine = some r)
    (hl : l ∈ windowLocs) (h : l ∉ outputLocs r.cmd) (hctrl : l ≠ .ctrl) (hstatus : l ≠ .status) (hcmd : l ≠ .cmd) :
    s.softReset.readLoc l = s.readLoc l := by
  rw [State.softReset_of_running hr, State.readLoc_clearControl_of_ne _ hctrl hstatus hcmd,
    s.readLoc_forgetAll_of_notMem (outputLocs_subset_windowLocs r.cmd) hl h]

theorem State.isSome_readLoc_clearControl (s : State) {l : Loc} (h : (s.readLoc l).isSome = true) :
    (s.clearControl.readLoc l).isSome = true := by
  cases l with
  | ctrl | status | cmd => rfl
  | _ => exact h

/-- Every word the abandoned command writes holds some value. -/
theorem State.isSome_readLoc_softReset {s : State} {r : Running} {l : Loc} (hr : s.engine = some r)
    (hl : l ∈ outputLocs r.cmd) : (s.softReset.readLoc l).isSome = true := by
  rw [State.softReset_of_running hr]
  exact State.isSome_readLoc_clearControl _ (s.isSome_readLoc_forgetAll (List.Subset.refl _) hl)

/-- Settles O50: the write is a soft reset, which clears the control registers last, after it forgot the words of the
command it abandons. -/
theorem softReset : Obligations.SoftReset := by
  intro s v prompt hsrst
  refine ⟨s.softReset, ?_, rfl, State.statusWord_eq_zero rfl rfl rfl, rfl, rfl, State.irq_of_ie_eq_false rfl,
    State.softReset_of_idle, fun r hr => ⟨fun l hl hout hctrl hstatus hcmd => ?_, fun l hl => ?_⟩⟩
  · exact (hostWrite_ctrl v prompt s).trans (congrArg _ (s.writeCtrl_of_srst hsrst))
  · exact State.readLoc_softReset_of_notMem hr hl hout hctrl hstatus hcmd
  · exact State.isSome_readLoc_softReset hr hl

end Sys2Proof.Machine
end

section
/-!
PROOF. Decode and encode are inverse (30_encoding.md R131 to R136, 20_memory.md R102): a word with `RSV` = 0 is the
word of its opcode and argument, and the fields of a command's word are those it was made from.
-/
namespace Sys2Proof
open Laws.CommandFields

/-! ### Words -/

theorem decode_encode (i : Instr) : decode (encode i) = .ok i := by
  cases i <;> simp [decode, encode, withoutArg, rsvOf_commandWord, opcOf_commandWord, argOf_commandWord]

/-- The three fields cover the word. -/
theorem commandWord_opcOf_argOf {w : Word} (h : rsvOf w = 0) : commandWord (opcOf w) (argOf w) = w := by
  have hfields : commandWord (opcOf w) (argOf w) = argOf w ++ rsvOf w ++ opcOf w := by rw [h]; rfl
  rw [hfields, argOf, rsvOf, opcOf, BitVec.extractLsb'_append_extractLsb'_eq_extractLsb' (by decide : 16 = 4 + 12),
    BitVec.extractLsb'_append_extractLsb'_eq_extractLsb' (by decide : 4 = 0 + 4)]
  exact BitVec.extractLsb'_eq_self

theorem withoutArg_eq_ok {w : Word} {i j : Instr} (h : withoutArg w i = .ok j) : i = j ∧ argOf w = 0 := by
  rw [withoutArg] at h
  split at h
  · next harg => exact ⟨Except.ok.inj h, harg⟩
  · cases h

/-- A word that decodes has `RSV` = 0, and the command's word has the same opcode and argument. -/
theorem decode_eq_ok {w : Word} {i : Instr} (h : decode w = .ok i) :
    rsvOf w = 0 ∧ encode i = commandWord (opcOf w) (argOf w) := by
  rw [decode] at h
  split at h
  · cases h
  next hrsv =>
  refine ⟨not_not.mp hrsv, ?_⟩
  split at h
  case h_1 hopc | h_5 hopc | h_6 hopc =>
    obtain ⟨rfl, harg⟩ := withoutArg_eq_ok h
    rw [harg, (BitVec.toNat_eq_nat.mp hopc).2]
    rfl
  case h_2 hopc | h_3 hopc | h_4 hopc =>
    obtain rfl := Except.ok.inj h
    rw [(BitVec.toNat_eq_nat.mp hopc).2]
    rfl
  case h_7 => cases h

theorem encode_of_decode {w : Word} {i : Instr} (h : decode w = .ok i) : encode i = w := by
  obtain ⟨hrsv, henc⟩ := decode_eq_ok h
  rw [henc, commandWord_opcOf_argOf hrsv]

/-- Settles O1: sixteen closed words. -/
theorem specWordsDecode : Obligations.SpecWordsDecode := by
  unfold Obligations.SpecWordsDecode
  decide

/-! ### Bytes -/

theorem decodeBytes_bytesOfWord (w : Word) (rest : List Byte) :
    decodeBytes (bytesOfWord w ++ rest) = (decode w).map fun i => (i, rest) := by
  conv_rhs => rw [← Machine.wordOfLanes_laneOf w]
  rfl

/-- Settles O2: the fields of a word determine its command and the reverse, and four bytes determine the word. -/
theorem decodeEncodeInverse : Obligations.DecodeEncodeInverse := by
  refine ⟨decode_encode, fun w i => encode_of_decode, fun i rest => ?_⟩
  rw [decodeBytes_bytesOfWord, decode_encode]
  rfl

end Sys2Proof
end

section
/-!
PROOF. The invariant of the buffers (10_state.md R41, 20_memory.md R104): one store of a buffer word keeps it, and every
operation changes the storage by such stores only.
-/
namespace Sys2Proof.Machine

/-! ### Storing one word -/

theorem State.BufferInv.congr {s t : State} (h : s.BufferInv) (hmem : t.mem = s.mem) : t.BufferInv := by
  rw [State.BufferInv, hmem]
  exact h

theorem bufferLocs_subset_windowLocs : bufferLocs ⊆ windowLocs := List.subset_append_right _ _

/-- A byte of another word is not touched by a store. -/
theorem State.read_store_of_offset_ne (s : State) {l l' : Loc} (v : Word) {a : Nat} (h : l'.offset ≠ l.offset)
    (ha : l'.covers a) : (s.store l v).mem.read a = s.mem.read a :=
  (s.readByte_store l v a).trans (if_neg fun hc => h (Loc.covers_unique ha hc))

theorem State.isSome_read_store_of_covers (s : State) {l : Loc} (v : Word) {a : Nat} (ha : l.covers a) :
    ((s.store l v).mem.read a).isSome = true :=
  Option.isSome_of_eq_some ((s.readByte_store l v a).trans (if_pos ha))

theorem State.BufferInv.store {s : State} (h : s.BufferInv) {l : Loc} (hl : l ∈ bufferLocs) (v : Word) :
    (s.store l v).BufferInv := by
  obtain ⟨hwf, honly, hwhole, hzero⟩ := h
  refine ⟨s.wf_store l v hwf, fun a b hread => ?_, fun l' hl' a ha => ?_, fun l' hl' w hw => ?_⟩
  · by_cases hc : l.covers a
    · exact ⟨l, hl, hc⟩
    · exact honly a b (((s.readByte_store l v a).trans (if_neg hc)).symm.trans hread)
  · by_cases hoff : l'.offset = l.offset
    · have hc : l.covers a := by rwa [Loc.covers, ← hoff]
      simp only [s.isSome_read_store_of_covers v hc, hoff, s.readWord_store_same, Option.isSome_some]
    · rw [s.read_store_of_offset_ne v hoff ha, s.readWord_store_other l l' v hoff]
      exact hwhole l' hl' a ha
  · by_cases hoff : l'.offset = l.offset
    · obtain rfl := Loc.eq_of_offset_eq (bufferLocs_subset_windowLocs hl') (bufferLocs_subset_windowLocs hl) hoff
      rw [s.readWord_store_same] at hw
      rw [← Option.some.inj hw, BitVec.and_assoc, BitVec.and_self]
    · rw [s.readWord_store_other l l' v hoff] at hw
      exact hzero l' hl' w hw

/-! ### Storing and forgetting lists of words -/

theorem State.BufferInv.storeAll {s : State} (h : s.BufferInv) {ws : List (Loc × Word)}
    (hws : ∀ w ∈ ws, w.1 ∈ bufferLocs) : (s.storeAll ws).BufferInv := by
  induction ws generalizing s with
  | nil => exact h
  | cons w ws ih =>
    obtain ⟨hw, hws⟩ := List.forall_mem_cons.mp hws
    exact ih (h.store hw w.2) hws

theorem mem_bufferLocs_of_isBuffer {l : Loc} (hl : l ∈ windowLocs) (h : l.isBuffer = true) : l ∈ bufferLocs := by
  refine (List.mem_append.mp hl).resolve_left fun hreg => ?_
  cases l with
  | tanhX | hard | crcMsg | llr | which | gjM => simp [registerLocs] at hreg
  | _ => cases h

theorem isBuffer_of_forgetsBuffer {l : Loc} (h : forgetsBuffer l = true) : l.isBuffer = true := by
  cases l with
  | hard | which | gjM => rfl
  | _ => cases h

theorem State.BufferInv.forget {s : State} (h : s.BufferInv) {l : Loc} (hl : l ∈ windowLocs) :
    (s.forget l).BufferInv := by
  by_cases hf : forgetsBuffer l = true
  · exact (h.store (mem_bufferLocs_of_isBuffer hl (isBuffer_of_forgetsBuffer hf)) _).congr
      ((s.forget_mem l).trans (if_pos hf))
  · exact h.congr ((s.forget_mem l).trans (if_neg hf))

theorem State.BufferInv.forgetAll {s : State} (h : s.BufferInv) {ls : List Loc} (hls : ls ⊆ windowLocs) :
    (s.forgetAll ls).BufferInv := by
  induction ls generalizing s with
  | nil => exact h
  | cons l ls ih =>
    obtain ⟨hl, hls⟩ := List.cons_subset.mp hls
    exact ih (h.forget hl) hls

/-! ### Commands and resets -/

theorem hardLocs_subset_bufferLocs : hardLocs ⊆ bufferLocs := inputLocs_subset_bufferLocs (i := .check) rfl

theorem gjLocs_whichLocs_subset_bufferLocs : gjLocs ++ whichLocs ⊆ bufferLocs :=
  inputLocs_subset_bufferLocs (i := .gjInvert) rfl

theorem State.BufferInv.writeOutputs {s : State} (h : s.BufferInv) (w : Work) : (s.writeOutputs w).BufferInv := by
  match w with
  | .check n => exact h.congr (s.writeOutputs_check_mem n)
  | .decode d =>
    refine (h.storeAll fun x hx => ?_).congr (s.writeOutputs_decode_mem d)
    obtain ⟨k, hk, rfl⟩ := List.mem_map.mp hx
    exact hardLocs_subset_bufferLocs (List.mem_map_of_mem hk)
  | .crc14 n scr => exact h.congr (s.writeOutputs_crc14_mem n scr)
  | .gjInvert gr rows labels true =>
    exact (h.forgetAll (List.Subset.trans gjLocs_whichLocs_subset_bufferLocs bufferLocs_subset_windowLocs)).congr
      (s.writeOutputs_gjFailed_mem gr rows labels)
  | .gjInvert gr rows labels false =>
    exact (h.storeAll fun x hx => gjLocs_whichLocs_subset_bufferLocs (mem_gj_stores hx)).congr
      (s.writeOutputs_gjDone_mem gr rows labels)
  | .tanh y => exact h.congr (s.writeOutputs_tanh_mem y)

theorem State.BufferInv.deliver {s : State} (h : s.BufferInv) (w : Work) : (s.deliver w).BufferInv :=
  (h.writeOutputs w).congr (s.deliver_mem w)

theorem State.BufferInv.softReset {s : State} (h : s.BufferInv) : s.softReset.BufferInv := by
  cases hr : s.engine with
  | none => exact h.congr (by rw [State.softReset_of_idle hr])
  | some r =>
    rw [State.softReset_of_running hr]
    exact (h.forgetAll (outputLocs_subset_windowLocs r.cmd)).congr (State.clearControl_mem _)

/-- Settles O55: a memory that lists no byte has none to get wrong. -/
theorem resetBufferInv : Obligations.ResetBufferInv := by
  refine ⟨Memory.wf_nil, fun a v h => ?_, fun l _ a _ => ?_, fun l _ v h => ?_⟩
  · cases h
  · exact iff_of_false (by simp [State.reset, Memory.read]) (by simp [State.reset, Memory.readWord, Memory.read])
  · cases h

/-! ### Steps -/

section
variable {s t : State}

theorem State.BufferInv.exec (h : s.BufferInv) {i : Instr} (hexec : exec i s = .next t) : t.BufferInv := by
  rcases exec_next_cases hexec with ⟨_, rfl⟩ | ⟨_, _, rfl⟩ | ⟨_, rfl⟩
  · exact h.congr (s.raise_mem _)
  · exact h.congr (s.raise_mem _)
  · exact (h.congr (s.accept_mem i)).deliver _

theorem State.BufferInv.beginCommand (h : s.BufferInv) {i : Instr} (hbegin : beginCommand i s = .next t) :
    t.BufferInv := by
  rcases beginCommand_next_cases hbegin with ⟨_, rfl⟩ | ⟨_, _, rfl⟩ | ⟨_, rfl⟩
  · exact h.congr (s.raise_mem _)
  · exact h.congr (s.raise_mem _)
  · exact h.congr (s.accept_mem i)

theorem State.BufferInv.issue (h : s.BufferInv) {v : Word} {prompt : Bool} (hissue : issue v prompt s = .next t) :
    t.BufferInv := by
  rcases issue_next_cases hissue with ⟨_, rfl⟩ | ⟨_, _, rfl⟩ | ⟨_, i, _, ⟨_, hrun⟩ | ⟨_, hbegin⟩⟩
  · exact h.congr (s.raise_mem _)
  · exact h.congr (s.raise_mem _)
  · exact h.exec hrun
  · exact h.beginCommand hbegin

theorem State.BufferInv.writeCtrl (h : s.BufferInv) (v : Word) : (s.writeCtrl v).BufferInv := by
  unfold State.writeCtrl
  split
  · exact h.softReset
  · exact h.congr rfl

theorem State.BufferInv.writeBuffer (h : s.BufferInv) {l : Loc} (hl : l ∈ bufferLocs) (v : Word) :
    (s.writeBuffer l v).BufferInv := by
  unfold State.writeBuffer
  split
  · exact h.congr (s.raise_mem _)
  · exact h.store hl v

theorem State.BufferInv.hostRead (h : s.BufferInv) {off : Offset} {lanes : BitVec 4}
    (hread : hostRead off lanes s = .next t) : t.BufferInv := by
  rcases hostRead_next_cases hread with ⟨_, rfl⟩ | ⟨_, _, _, rfl⟩ | ⟨_, v, _, _, _, rfl⟩
  · exact h.congr (by rw [State.answer_mem, State.raise_mem])
  · exact h.congr (by rw [State.answer_mem, State.drawn_mem])
  · exact h.congr (s.answer_mem v)

theorem State.BufferInv.hostWrite (h : s.BufferInv) {off : Offset} {lanes : BitVec 4} {v : Word} {prompt : Bool}
    (hwrite : hostWrite off lanes v prompt s = .next t) : t.BufferInv := by
  rcases hostWrite_next_cases hwrite with ⟨_, rfl⟩ | ⟨_, rfl⟩ | ⟨_, rfl⟩ | ⟨_, hissue⟩ | ⟨l, htarget, hbuf, rfl⟩
  · exact h.congr (s.raise_mem _)
  · exact h.writeCtrl v
  · exact h.congr (s.clearStatus_mem v)
  · exact h.issue hissue
  · obtain ⟨_, _, hl, _⟩ := target_eq_some htarget
    exact h.writeBuffer (mem_bufferLocs_of_isBuffer hl hbuf) v

theorem State.BufferInv.hostAccess (h : s.BufferInv) {a : Access} {prompt : Bool}
    (haccess : hostAccess a prompt s = .next t) : t.BufferInv := by
  cases a with
  | read off lanes => exact h.hostRead haccess
  | write off lanes v => exact h.hostWrite haccess

theorem State.BufferInv.engineMove (h : s.BufferInv) : s.engineMove.BufferInv := by
  rcases s.engineMove_cases with ⟨_, hmove⟩ | ⟨r, _, _, hmove⟩ | ⟨r, _, _, hmove⟩ <;> rw [hmove]
  · exact h
  · exact h.deliver _
  · exact h.congr rfl

end

/-- Settles O54: by cases on what a step can do. -/
theorem stepKeepsBufferInv : Obligations.StepKeepsBufferInv := by
  intro s t h hstep
  rcases step_next_cases hstep with
    ⟨_, rfl⟩ | ⟨rest, ⟨a, p, _, _, haccess⟩ | ⟨_, rfl⟩ | ⟨_, rfl⟩ | ⟨_, rfl⟩⟩
  · exact h.engineMove
  · exact State.BufferInv.hostAccess (s := { s with turns := rest }) (h.congr rfl) haccess
  · exact State.BufferInv.engineMove (h.congr rfl)
  · exact State.BufferInv.congr resetBufferInv rfl
  · exact h.congr rfl

end Sys2Proof.Machine
end

section
/-!
PROOF. The invariant of the ENGINE (10_state.md R80, 20_memory.md R110): a move keeps the work of its own kind,
acceptance begins with such work, and everything else leaves a running command and what it rests on
alone or discards it.
-/
namespace Sys2Proof.Machine

/-! ### The work of a decode -/

/-- What `Running.workOk` says of a decode in a phase: its domain and budget, `NIT` within the budget, and once INIT is
done `BEST_SCORE` the score of `BEST`. -/
def Decoder.WorkOk (dom : Domain) (iters : Nat) (t : Tables) (ph : Phase) (d : Decoder) : Prop :=
  d.dom = dom ∧ d.iters = iters ∧ d.nit ≤ d.iters ∧ (ph ≠ .init → d.bestScore = scoreOf t d.best)

section
variable {dom : Domain} {iters : Nat} {t : Tables} {ph : Phase} {d : Decoder}

theorem Decoder.WorkOk.proceed (hdom : d.dom = dom) (hiters : d.iters = iters) (hnit : d.nit ≤ d.iters)
    (hbest : d.bestScore = scoreOf t d.best) : d.proceed.2.WorkOk dom iters t d.proceed.1 := by
  unfold Decoder.proceed
  split
  · next hlt => exact ⟨hdom, hiters, hlt, fun _ => hbest⟩
  · exact ⟨hdom, hiters, hnit, fun _ => hbest⟩

theorem Decoder.WorkOk.test (h : d.WorkOk dom iters t .test) (ph : Phase) : (d.test t).WorkOk dom iters t ph := by
  obtain ⟨hdom, hiters, hnit, hbest⟩ := h
  unfold Decoder.test
  split_ifs
  · exact ⟨hdom, hiters, hnit, fun _ => hbest (by decide)⟩
  · exact ⟨hdom, hiters, hnit, fun _ => rfl⟩
  · exact ⟨hdom, hiters, hnit, fun _ => hbest (by decide)⟩

theorem Decoder.WorkOk.move (h : d.WorkOk dom iters t ph) :
    (Decoder.move t ph d).2.WorkOk dom iters t (Decoder.move t ph d).1 := by
  have ⟨hdom, hiters, hnit, hbest⟩ := h
  cases ph with
  | init => exact .proceed (d := d.init t) hdom hiters hnit rfl
  | cn | hd | finish => exact ⟨hdom, hiters, hnit, fun _ => hbest (by decide)⟩
  | test =>
    rw [Decoder.move]
    split <;> exact h.test _
  | vn => exact .proceed (d := d.variableUpdate t) hdom hiters hnit (hbest (by decide))

end

/-! ### The work of a command -/

theorem Running.workOk_decode_iff {dom : Domain} {n : BitVec 16} {ph : Phase} {d : Decoder} {t : Tables} :
    Running.workOk ⟨decodeInstr dom n, ph, .decode d⟩ t ↔ d.WorkOk dom n.toNat t ph := by
  cases dom <;> rfl

theorem Running.workOk.decoderMove {dom : Domain} {n : BitVec 16} {ph : Phase} {d : Decoder} {t : Tables}
    (h : Running.workOk ⟨decodeInstr dom n, ph, .decode d⟩ t) :
    Running.workOk ⟨decodeInstr dom n, (Decoder.move t ph d).1, .decode (Decoder.move t ph d).2⟩ t :=
  Running.workOk_decode_iff.mpr (Running.workOk_decode_iff.mp h).move

theorem gjMove_cases (gr : Nat) (g : Gj) :
    (gjMove gr g = (.finish, .gjInvert gr g.rows g.labels true)) ∨
    ∃ g' : Gj, g.step gr = some g' ∧
      gjMove gr g = (if gr + 1 < 91 then .init else .finish, .gjInvert (gr + 1) g'.rows g'.labels false) := by
  cases hstep : g.step gr with
  | none => exact .inl (by rw [gjMove, hstep])
  | some g' => exact .inr ⟨g', rfl, by rw [gjMove, hstep]⟩

/-- A command that begins has work of its own kind. -/
theorem workOk_startWork (i : Instr) (s : State) (t : Tables) : Running.workOk ⟨i, .init, startWork i s⟩ t := by
  cases i with
  | check | tanh => trivial
  | decodeProb n | decodeLlr n => exact ⟨rfl, rfl, Nat.zero_le _, fun h => absurd rfl h⟩
  | crc14 n => exact rfl
  | gjInvert => exact ⟨Nat.zero_le _, fun _ => by decide⟩

/-- A move of the ENGINE keeps the work of its own kind. -/
theorem Running.workOk.advance {r : Running} {s : State} (h : r.workOk s.rom) (hphase : r.phase ≠ .finish) :
    (r.advance s).workOk s.rom := by
  obtain ⟨cmd, ph, work⟩ := r
  cases cmd <;> cases work <;> try exact h.elim
  case check.check | crc14.crc14 | tanh.tanh => exact h
  case decodeProb.decode => exact Running.workOk.decoderMove (dom := .prob) h
  case decodeLlr.decode => exact Running.workOk.decoderMove (dom := .llr) h
  case gjInvert.gjInvert gr rows labels failed =>
    obtain ⟨hle, hlt⟩ := h
    have hlt := hlt hphase
    rw [Running.advance]
    rcases gjMove_cases gr ⟨rows, labels⟩ with hmove | ⟨g', _, hmove⟩ <;> simp only [hmove, Running.workOk]
    · exact ⟨hle, fun hne => absurd rfl hne⟩
    · refine ⟨hlt, fun hne => ?_⟩
      by_contra hge
      exact hne (if_neg hge)

/-! ### States -/

theorem State.EngineInv.of_idle {s : State} (h : s.engine = none) : s.EngineInv := by
  intro r hr
  rw [h] at hr
  cases hr

/-- The invariant speaks of the running command, `CMD`, `DONE`, the buffers and the tables only. -/
theorem State.EngineInv.congr {s t : State} (h : s.EngineInv) (hengine : t.engine = s.engine) (hcmd : t.cmd = s.cmd)
    (hdone : t.done = s.done) (hmem : t.mem = s.mem) (hrom : t.rom = s.rom) : t.EngineInv := by
  intro r hr
  obtain ⟨hcmd', hdone', hwf, hin, hwork⟩ := h r (hengine ▸ hr)
  refine ⟨hcmd.trans hcmd', hdone.trans hdone', hwf, fun l hl => ?_, hrom ▸ hwork⟩
  rw [State.written, hmem]
  exact hin l hl

section
variable {s t : State}

theorem State.EngineInv.raise (h : s.EngineInv) (c : ErrCode) : (s.raise c).EngineInv :=
  h.congr (s.raise_engine c) (s.raise_cmd c) (s.raise_done c) (s.raise_mem c) (s.raise_rom c)

theorem State.EngineInv.answer (h : s.EngineInv) (v : Word) : (s.answer v).EngineInv :=
  h.congr (s.answer_engine v) (s.answer_cmd v) (s.answer_done v) (s.answer_mem v) (s.answer_rom v)

theorem State.EngineInv.drawn (h : s.EngineInv) : s.drawn.EngineInv :=
  h.congr s.drawn_engine s.drawn_cmd s.drawn_done s.drawn_mem s.drawn_rom

theorem State.EngineInv.clearStatus (h : s.EngineInv) (v : Word) : (s.clearStatus v).EngineInv := by
  intro r hr
  obtain ⟨hcmd, hdone, hwf, hin, hwork⟩ := h r hr
  exact ⟨hcmd, by rw [State.clearStatus_done, hdone, Bool.false_and], hwf, hin, hwork⟩

theorem State.EngineInv.writeCtrl (h : s.EngineInv) (v : Word) : (s.writeCtrl v).EngineInv := by
  unfold State.writeCtrl
  split
  · exact .of_idle s.abandon.clearControl_engine
  · exact h.congr rfl rfl rfl rfl rfl

/-- While a command runs no buffer word is stored, so its inputs stay written. -/
theorem State.EngineInv.writeBuffer (h : s.EngineInv) (l : Loc) (v : Word) : (s.writeBuffer l v).EngineInv := by
  unfold State.writeBuffer
  split
  · exact h.raise _
  · next hidle => exact .of_idle (State.engine_of_idle (eq_false_of_ne_true hidle))

theorem State.engineInv_deliver (s : State) (w : Work) : (s.deliver w).EngineInv := .of_idle (s.deliver_engine w)

theorem State.EngineInv.exec (h : s.EngineInv) {i : Instr} (hexec : exec i s = .next t) : t.EngineInv := by
  rcases exec_next_cases hexec with ⟨_, rfl⟩ | ⟨_, _, rfl⟩ | ⟨_, rfl⟩
  · exact h.raise _
  · exact h.raise _
  · exact State.engineInv_deliver _ _

theorem State.EngineInv.beginCommand (h : s.EngineInv) {i : Instr} (hbegin : beginCommand i s = .next t) :
    t.EngineInv := by
  rcases beginCommand_next_cases hbegin with ⟨_, rfl⟩ | ⟨_, _, rfl⟩ | ⟨⟨_, hwf, hin⟩, rfl⟩
  · exact h.raise _
  · exact h.raise _
  · intro r hr
    cases hr
    exact ⟨rfl, rfl, hwf, hin, workOk_startWork i _ _⟩

theorem State.EngineInv.issue (h : s.EngineInv) {v : Word} {prompt : Bool} (hissue : issue v prompt s = .next t) :
    t.EngineInv := by
  rcases issue_next_cases hissue with ⟨_, rfl⟩ | ⟨_, _, rfl⟩ | ⟨_, i, _, ⟨_, hrun⟩ | ⟨_, hbegin⟩⟩
  · exact h.raise _
  · exact h.raise _
  · exact h.exec hrun
  · exact h.beginCommand hbegin

theorem State.EngineInv.hostRead (h : s.EngineInv) {off : Offset} {lanes : BitVec 4}
    (hread : hostRead off lanes s = .next t) : t.EngineInv := by
  rcases hostRead_next_cases hread with ⟨_, rfl⟩ | ⟨_, _, _, rfl⟩ | ⟨_, v, _, _, _, rfl⟩
  · exact (h.raise _).answer _
  · exact h.drawn.answer _
  · exact h.answer v

theorem State.EngineInv.hostWrite (h : s.EngineInv) {off : Offset} {lanes : BitVec 4} {v : Word} {prompt : Bool}
    (hwrite : hostWrite off lanes v prompt s = .next t) : t.EngineInv := by
  rcases hostWrite_next_cases hwrite with ⟨_, rfl⟩ | ⟨_, rfl⟩ | ⟨_, rfl⟩ | ⟨_, hissue⟩ | ⟨l, _, _, rfl⟩
  · exact h.raise _
  · exact h.writeCtrl v
  · exact h.clearStatus v
  · exact h.issue hissue
  · exact h.writeBuffer l v

theorem State.EngineInv.hostAccess (h : s.EngineInv) {a : Access} {prompt : Bool}
    (haccess : hostAccess a prompt s = .next t) : t.EngineInv := by
  cases a with
  | read off lanes => exact h.hostRead haccess
  | write off lanes v => exact h.hostWrite haccess

theorem Running.advance_cmd (r : Running) (s : State) : (r.advance s).cmd = r.cmd := by
  unfold Running.advance
  split <;> rfl

theorem State.EngineInv.engineMove (h : s.EngineInv) : s.engineMove.EngineInv := by
  rcases s.engineMove_cases with ⟨_, hmove⟩ | ⟨r, _, _, hmove⟩ | ⟨r, hr, hphase, hmove⟩ <;> rw [hmove]
  · exact h
  · exact s.engineInv_deliver _
  · intro r' hr'
    cases hr'
    obtain ⟨hcmd, hdone, hwf, hin, hwork⟩ := h r hr
    rw [r.advance_cmd s]
    exact ⟨hcmd, hdone, hwf, hin, hwork.advance hphase⟩

end

/-- Settles O57: no command runs after reset. -/
theorem resetEngineInv : Obligations.ResetEngineInv := State.EngineInv.of_idle rfl

/-- Settles O56: by cases on what a step can do; only a move of the ENGINE and the beginning of a command give it work. -/
theorem stepKeepsEngineInv : Obligations.StepKeepsEngineInv := by
  intro s t h hstep
  rcases step_next_cases hstep with
    ⟨_, rfl⟩ | ⟨rest, ⟨a, p, _, _, haccess⟩ | ⟨_, rfl⟩ | ⟨_, rfl⟩ | ⟨_, rfl⟩⟩
  · exact h.engineMove
  · exact State.EngineInv.hostAccess (s := { s with turns := rest }) (h.congr rfl rfl rfl rfl rfl) haccess
  · exact State.EngineInv.engineMove (h.congr rfl rfl rfl rfl rfl)
  · exact .of_idle rfl
  · exact h.congr rfl rfl rfl rfl rfl

end Sys2Proof.Machine
end

section
/-!
PROOF. The acceptance of a command (30_encoding.md R138, 60_exceptions.md R306): what a ready command answers, where a
command is turned away, and that a step issues the command its turn writes.
-/
namespace Sys2Proof.Machine

/-! ### Commands that are ready -/

theorem State.irq_of_done {s : State} (h : s.done = true) : s.irq = s.ie := by
  rw [State.irq, h, Bool.true_or, Bool.and_true]

/-- Settles O8: a ready command is accepted and delivers its work, which touches none of these fields but the flags. -/
theorem readyCommandCompletes : Obligations.ReadyCommandCompletes := by
  intro i s h
  refine ⟨_, exec_ready h, State.deliver_busy _ _, State.deliver_done _ _, ?_, ?_, ?_, ?_, ?_, ?_⟩
  · rw [State.deliver_cmd, State.accept_cmd]
  · rw [State.deliver_err, State.accept_err]
  · rw [State.irq_of_done (State.deliver_done _ _), State.deliver_ie, State.accept_ie]
  · rw [State.deliver_rom, State.accept_rom]
  · rw [State.deliver_turns, State.accept_turns]
  · rw [State.deliver_reads, State.accept_reads]

/-- Settles O10: acceptance of a ready command only begins it. -/
theorem acceptanceSetsBusy : Obligations.AcceptanceSetsBusy :=
  fun i s h => ⟨⟨i, .init, startWork i (s.accept i)⟩, rfl, rfl, beginCommand_ready h⟩

/-! ### Commands that are turned away -/

theorem acceptCommand_of_busy {s : State} (h : s.busy = true) (i : Instr)
    (run : State → Host.Outcome State Fault Refusal) : acceptCommand i run s = .next (s.raise .busyAccess) := by
  rw [acceptCommand, if_pos h]

/-- The fault names the first unwritten word, which is one of the command's inputs. -/
theorem acceptCommand_of_unwritten {i : Instr} {s : State} (hidle : s.busy = false) (hwf : i.wellFormed = true)
    (h : ∃ l ∈ inputLocs i, s.written l = false) (run : State → Host.Outcome State Fault Refusal) :
    ∃ l ∈ inputLocs i, s.written l = false ∧ acceptCommand i run s = .fault (.unwrittenInput l.offset) := by
  rcases acceptCommand_cases i run s with ⟨hbusy, _⟩ | ⟨_, hbad, _⟩ | ⟨_, _, hfault⟩ | ⟨⟨_, _, hall⟩, _⟩
  · simp [hidle] at hbusy
  · simp [hwf] at hbad
  · exact hfault
  · obtain ⟨l, hl, hunwritten⟩ := h
    simp [hall l hl] at hunwritten

/-- Settles O9: acceptance tests for a running command, then the argument, then the inputs. -/
theorem commandTurnedAway : Obligations.CommandTurnedAway := by
  intro i s
  simp only [exec_eq_acceptCommand]
  refine ⟨fun hbusy => ?_, fun hidle hbad => ?_, fun hidle hwf h => ?_⟩
  · exact acceptCommand_of_busy hbusy i _
  · exact acceptCommand_of_not_wellFormed hidle hbad _
  · exact acceptCommand_of_unwritten hidle hwf h _

/-! ### The order of the tests -/

/-- Settles O6: a malformed access names no location; then `issue` tests for a running command before it decodes, and an
illegal word never reaches the test of its argument. -/
theorem errorPriority : Obligations.ErrorPriority := by
  intro s v prompt
  refine ⟨?_, fun hbusy => ?_, fun hidle => ?_⟩
  · exact hostWrite_of_target_eq_none (target_eq_none (.inr (.inl (by decide)))) v prompt s
  · exact (hostWrite_cmd _ prompt s).trans (issue_of_busy hbusy _ prompt)
  · exact illegalWordRefused s _ prompt hidle (.inr (.inr (.inl (by decide))))

/-! ### A step issues the command -/

theorem issue_of_decode {s : State} {v : Word} {i : Instr} (hidle : s.busy = false) (h : decode v = .ok i)
    (prompt : Bool) : issue v prompt s = if prompt then exec i s else beginCommand i s := by
  simp only [issue, hidle, h, Bool.false_eq_true, if_false]

theorem step_of_turn {s : State} {t : Turn} {rest : List Turn} (h : s.turns = t :: rest) :
    step s = perform t { s with turns := rest } := by
  simp only [step, takeTurn, h]

/-- A step whose turn is a host access is that access, the turn consumed. -/
theorem step_host {s : State} {a : Access} {prompt : Bool} {rest : List Turn}
    (hturns : s.turns = .host a prompt :: rest) (hrst : s.rst = false) :
    step s = hostAccess a prompt { s with turns := rest } :=
  (step_of_turn hturns).trans (if_neg (ne_true_of_eq_false hrst))

theorem step_of_commandWrite {s : State} {v : Word} {i : Instr} {prompt : Bool} {rest : List Turn}
    (hturns : s.turns = .host (.write 0x0010 0xF v) prompt :: rest) (hrst : s.rst = false) (hidle : s.busy = false)
    (hv : decode v = .ok i) :
    step s = if prompt then exec i { s with turns := rest } else beginCommand i { s with turns := rest } := by
  rw [step_host hturns hrst]
  exact (hostWrite_cmd v prompt _).trans (issue_of_decode (s := { s with turns := rest }) hidle hv prompt)

theorem decode_tableWord {nbits w : Nat} {i : Instr} (h : decodeTableWord nbits w = some i) :
    decode (tableWord nbits w) = .ok i := by
  have hbytes := decodeBytes_bytesOfWord (tableWord nbits w) []
  rw [List.append_nil] at hbytes
  rw [decodeTableWord, hbytes] at h
  cases hd : decode (tableWord nbits w) with
  | error e => simp [hd, Except.map] at h
  | ok j => simpa [hd, Except.map] using h

/-- Settles O7: `withFetchWord` puts such a turn, a prompt one, before the turns of an idle block. -/
theorem stepRunsDecodedCommand : Obligations.StepRunsDecodedCommand := by
  constructor
  · intro s v i prompt rest hturns hrst hidle hv
    exact step_of_commandWrite hturns hrst hidle hv
  · intro s nbits w i h
    exact step_of_commandWrite (s := s.withFetchWord nbits w) rfl rfl rfl (decode_tableWord h)

end Sys2Proof.Machine
end

section
/-!
PROOF. The window and the accesses of the HOST (10_state.md R40 to R51, R67; 20_memory.md R105, R110;
70_reset_and_hazards.md R341): where each location stands, and what a read or a write of it does.
-/
namespace Sys2Proof.Machine

/-! ### The window -/

/-- Settles O40: `locate` and `Loc.offset` are inverse on the locations within bounds, and offsets are multiples of 4. -/
theorem windowMap : Obligations.WindowMap := by
  refine ⟨fun l hl => ?_, fun off l h => ?_⟩
  · have hbounds := (mem_windowLocs_iff l).mp hl
    have hlt := hbounds.offset_lt
    have halign := l.offset_mod_four
    exact ⟨locate_offset hbounds, by omega⟩
  · obtain ⟨hbounds, hoff⟩ := locate_eq_some h
    exact ⟨(mem_windowLocs_iff l).mpr hbounds, hoff⟩

/-! ### Reads -/

theorem State.runningOutputs_of_idle {s : State} (h : s.busy = false) : s.runningOutputs = [] := by
  rw [State.runningOutputs, State.engine_of_idle h]

/-- Settles O43: an idle block has no outputs of a running command. -/
theorem idleReads : Obligations.IdleReads := by
  intro s l v hidle hl hv
  exact hostRead_of_readLoc hl (by simp [State.runningOutputs_of_idle hidle]) hv

theorem State.readLoc_of_not_written {s : State} {l : Loc} (hl : l ∈ bufferLocs) (h : s.written l = false) :
    s.readLoc l = none := by
  rw [s.readLoc_of_isBuffer (isBuffer_of_mem_bufferLocs hl)]
  simpa [State.written] using h

/-- Settles O44: the read reaches the location, which holds no value. -/
theorem unwrittenReadFaults : Obligations.UnwrittenReadFaults := by
  intro s l hl hunwritten hout
  have hwindow := bufferLocs_subset_windowLocs hl
  have hnone := State.readLoc_of_not_written hl hunwritten
  have hc : ¬ s.runningOutputs.contains l = true := fun h => hout (List.contains_iff_mem.mp h)
  simp only [hostRead, target_bus hwindow, if_neg hc, hnone, Loc.bus_toNat hwindow]

/-! ### Writes -/

theorem State.writeBuffer_of_idle {s : State} (h : s.busy = false) (l : Loc) (v : Word) :
    s.writeBuffer l v = s.store l v := by
  rw [State.writeBuffer, if_neg (ne_true_of_eq_false h)]

theorem hostWrite_buffer_of_idle {s : State} {l : Loc} (hidle : s.busy = false) (hl : l ∈ bufferLocs) (v : Word)
    (prompt : Bool) : hostWrite l.bus 0xF v prompt s = .next (s.store l v) := by
  rw [hostWrite_of_isBuffer (bufferLocs_subset_windowLocs hl) (isBuffer_of_mem_bufferLocs hl),
    State.writeBuffer_of_idle hidle]

/-- Settles O45: the write stores one word, and other locations stand at other offsets. -/
theorem bufferWriteReadsBack : Obligations.BufferWriteReadsBack := by
  intro s l v prompt hidle hl
  refine ⟨_, hostWrite_buffer_of_idle hidle hl v prompt, ?_, fun l' hl' hne => ?_⟩
  · rw [State.readLoc_of_isBuffer _ (isBuffer_of_mem_bufferLocs hl), s.readWord_store_same]
  · exact s.readLoc_store_of_offset_ne v (mt (Loc.eq_of_offset_eq hl' (bufferLocs_subset_windowLocs hl)) hne)

/-- Settles O48: the write reaches `STATUS`. -/
theorem statusWriteClears : Obligations.StatusWriteClears := by
  intro s v prompt
  have hdone : (if v.getLsbD 1 then false else s.done) = (s.done && !v.getLsbD 1) := by
    rw [Bool.if_false_left, Bool.decide_eq_true, Bool.and_comm]
  rw [hdone]
  exact hostWrite_status v prompt s

theorem State.writeCtrl_of_not_srst (s : State) {v : Word} (h : v.getLsbD 1 = false) :
    s.writeCtrl v = { s with ie := v.getLsbD 0 } := by
  rw [State.writeCtrl, if_neg (ne_true_of_eq_false h)]

/-- Settles O49: the write reaches `CTRL`. -/
theorem controlWriteSetsIe : Obligations.ControlWriteSetsIe := by
  intro s v prompt h
  rw [← s.writeCtrl_of_not_srst h]
  exact hostWrite_ctrl v prompt s

/-- Settles O52: the turn is looked at before the access. -/
theorem noAccessDuringReset : Obligations.NoAccessDuringReset := by
  intro s a prompt rest hrst hturns
  exact (step_of_turn hturns).trans (if_pos hrst)

/-! ### The status word -/

/-- Settles O47: `STATUS` is a function of `BUSY`, `DONE` and the first error, which take 20 values together. -/
theorem statusFields : Obligations.StatusFields := by
  intro s
  rw [State.statusWord, State.errFlag, State.errCode]
  generalize s.busy = busy
  generalize s.done = done
  rcases s.err with _ | code
  · revert busy done
    decide
  · cases code <;> revert busy done <;> decide

end Sys2Proof.Machine
end

section
/-!
PROOF. The ENGINE at work (41_scheduler.md R183, 70_reset_and_hazards.md R351): moves change hidden state until the last
one delivers; from the acceptance of a command they lead to what `exec` delivers; from any phase and work they
come to an end.
-/
namespace Sys2Proof.Machine

/-! ### What a move hides -/

/-- Settles O39: a move that does not complete the command stores its work only. -/
theorem workIsHidden : Obligations.WorkIsHidden := by
  intro s hbusy
  rcases s.engineMove_cases with ⟨_, hmove⟩ | ⟨r, _, _, hmove⟩ | ⟨r, _, _, hmove⟩
  · rw [hmove]
  · rw [hmove, State.deliver_busy] at hbusy
    cases hbusy
  · rw [hmove]

/-! ### Delivery does not look at the ENGINE -/

section
variable (s : State) (e : Option Running)

theorem State.storeAll_with_engine (ws : List (Loc × Word)) :
    State.storeAll { s with engine := e } ws = { s.storeAll ws with engine := e } := by
  induction ws generalizing s with
  | nil => rfl
  | cons w ws ih => exact ih (s.store w.1 w.2)

theorem State.forget_with_engine (l : Loc) :
    State.forget { s with engine := e } l = { s.forget l with engine := e } := by
  cases l <;> rfl

theorem State.forgetAll_with_engine (ls : List Loc) :
    State.forgetAll { s with engine := e } ls = { s.forgetAll ls with engine := e } := by
  induction ls generalizing s with
  | nil => rfl
  | cons l ls ih => rw [State.forgetAll_cons, State.forget_with_engine, ih, State.forgetAll_cons]

theorem State.writeOutputs_with_engine (w : Work) :
    State.writeOutputs { s with engine := e } w = { s.writeOutputs w with engine := e } := by
  match w with
  | .check _ | .crc14 _ _ => rfl
  | .decode d =>
    rw [State.writeOutputs, State.writeHard, State.storeAll_with_engine]
    rfl
  | .gjInvert _ _ _ true =>
    rw [State.writeOutputs, if_pos rfl, State.forgetAll_with_engine]
    rfl
  | .gjInvert _ rows labels false =>
    rw [State.writeOutputs, if_neg (by decide), State.writeGj, State.storeAll_with_engine]
    rfl
  | .tanh y =>
    rw [State.writeOutputs, State.writeOutputs]
    split <;> rfl

theorem State.deliver_with_engine (w : Work) : State.deliver { s with engine := e } w = s.deliver w := by
  rw [State.deliver, State.writeOutputs_with_engine]
  rfl

end

/-! ### From acceptance to completion -/

/-- Finitely many moves of a command running as `r` deliver `w`. -/
def State.Leads (s : State) (r : Running) (w : Work) : Prop :=
  ∃ n, State.engineMoves n { s with engine := some r } = s.deliver w

section
variable {s : State} {r : Running} {w : Work}

theorem State.leads_finish (h : r.phase = .finish) : s.Leads r r.work := by
  refine ⟨1, ?_⟩
  rw [State.engineMoves, State.engineMoves, State.engineMove_finish rfl h, State.deliver_with_engine]

theorem State.Leads.of_advance (hphase : r.phase ≠ .finish) (h : s.Leads (r.advance s) w) : s.Leads r w := by
  obtain ⟨n, hn⟩ := h
  refine ⟨n + 1, ?_⟩
  rw [State.engineMoves, State.engineMove_work rfl hphase]
  exact hn

end

theorem Decoder.test_nit (t : Tables) (d : Decoder) : (d.test t).nit = d.nit := by
  unfold Decoder.test
  split_ifs <;> rfl

theorem Decoder.test_iters (t : Tables) (d : Decoder) : (d.test t).iters = d.iters := by
  unfold Decoder.test
  split_ifs <;> rfl

section
variable {s : State} {i : Instr} {w : Work}

theorem State.Leads.of_decoderMove {ph : Phase} {d : Decoder} (hphase : ph ≠ .finish)
    (h : s.Leads ⟨i, (Decoder.move s.rom ph d).1, .decode (Decoder.move s.rom ph d).2⟩ w) :
    s.Leads ⟨i, ph, .decode d⟩ w :=
  .of_advance hphase h

/-- TEST of an iteration: OUT at a score of 83, else the iterations that remain (41_scheduler.md R183, R185). -/
theorem State.Leads.of_vn {n : Nat} {d : Decoder} (h : s.Leads ⟨i, .vn, .decode (d.test s.rom)⟩
    (.decode (Decoder.loop s.rom n ((d.test s.rom).variableUpdate s.rom)))) :
    s.Leads ⟨i, .test, .decode d⟩ (.decode (if (d.test s.rom).early then d.test s.rom else
      Decoder.loop s.rom n ((d.test s.rom).variableUpdate s.rom))) := by
  refine .of_decoderMove nofun ?_
  rw [Decoder.move]
  split_ifs
  · exact State.leads_finish rfl
  · exact h

/-- From the end of INIT or VN a decode runs the rest of its budget (41_scheduler.md R183). -/
theorem State.leads_proceed {n : Nat} {d : Decoder} (h : d.iters = d.nit + n) :
    s.Leads ⟨i, d.proceed.1, .decode d.proceed.2⟩ (.decode (Decoder.loop s.rom n d)) := by
  induction n generalizing d with
  | zero =>
    rw [Decoder.proceed, if_neg (by omega)]
    exact State.leads_finish rfl
  | succ n ih =>
    rw [Decoder.proceed, if_pos (by omega), Decoder.loop]
    refine .of_decoderMove (ph := .cn) nofun (.of_decoderMove (ph := .hd) nofun (.of_vn ?_))
    refine .of_decoderMove nofun (ih ?_)
    rw [Decoder.variableUpdate, Decoder.test_iters, Decoder.test_nit]
    exact h.trans (Nat.add_right_comm d.nit n 1)

theorem State.leads_run (dom : Domain) (iters : Nat) (lc : List F64) :
    s.Leads ⟨i, .init, .decode (Decoder.start dom iters lc)⟩ (.decode (Decoder.run dom iters s.rom lc)) :=
  .of_decoderMove nofun (State.leads_proceed (d := (Decoder.start dom iters lc).init s.rom) (Nat.zero_add iters).symm)

theorem State.Leads.of_gjMove {r : Nat} {g : Gj} (h : s.Leads ⟨i, (gjMove r g).1, (gjMove r g).2⟩ w) :
    s.Leads ⟨i, .init, .gjInvert r g.rows g.labels false⟩ w :=
  .of_advance nofun h

/-- GJ_INVERT takes one move for each pivot row until it finds none (46_gauss_jordan.md R274). -/
theorem State.leads_gjSweep {n r : Nat} {g : Gj} (h : r + n = 91) :
    s.Leads ⟨i, if r < 91 then .init else .finish, .gjInvert r g.rows g.labels false⟩ (gjSweep n r g) := by
  induction n generalizing r g with
  | zero =>
    rw [if_neg (by omega)]
    exact State.leads_finish rfl
  | succ n ih =>
    rw [if_pos (by omega)]
    refine .of_gjMove ?_
    rw [gjMove, gjSweep]
    cases g.step r with
    | none => exact State.leads_finish rfl
    | some g' => exact ih (by omega)

/-- A command that begins leads to the work it ends with when it runs at once. -/
theorem State.leads_finalWork (i : Instr) (s : State) : s.Leads ⟨i, .init, startWork i s⟩ (finalWork i s) := by
  cases i with
  | check | crc14 | tanh => exact .of_advance nofun (State.leads_finish rfl)
  | decodeProb | decodeLlr => exact State.leads_run _ _ _
  | gjInvert => exact State.leads_gjSweep (n := 91) (g := ⟨s.gjRows, s.labels⟩) rfl

end

/-- Settles O37: `exec` delivers what the beginning of the command leads to. -/
theorem engineMovesReachExec : Obligations.EngineMovesReachExec := by
  intro i s h
  obtain ⟨n, hn⟩ := State.leads_finalWork i (s.accept i)
  rw [finalWork_congr i (State.accept_mem s i) (State.accept_rom s i)] at hn
  exact ⟨_, _, n, beginCommand_ready h, rfl, exec_ready h, hn⟩

/-! ### Every running command completes -/

/-- The moves to completion of a decode, at most: five in an iteration, whose last is its VN. -/
def Decoder.movesLeft (d : Decoder) : Phase → Nat
  | .init => 5 * (d.iters - d.nit) + 1
  | .cn => 5 * (d.iters - d.nit) + 4
  | .hd => 5 * (d.iters - d.nit) + 3
  | .test => 5 * (d.iters - d.nit) + 2
  | .vn => 5 * (d.iters - d.nit) + 1
  | .finish => 0

/-- The moves to FINISH of a running command, at most, whatever its phase and work. -/
def Running.movesLeft (r : Running) : Nat :=
  match r.work with
  | .decode d => d.movesLeft r.phase
  | .gjInvert gr _ _ _ => if r.phase = .finish then 0 else 91 - gr + 1
  | _ => if r.phase = .finish then 0 else 1

theorem Decoder.movesLeft_proceed_le (d : Decoder) : d.proceed.2.movesLeft d.proceed.1 ≤ 5 * (d.iters - d.nit) := by
  unfold Decoder.proceed
  split
  · simp only [Decoder.movesLeft, Decoder.nextIteration]
    omega
  · exact Nat.zero_le _

theorem Decoder.movesLeft_move_lt (t : Tables) (d : Decoder) {ph : Phase} (h : ph ≠ .finish) :
    (Decoder.move t ph d).2.movesLeft (Decoder.move t ph d).1 < d.movesLeft ph := by
  cases ph with
  | init => exact Nat.lt_succ_of_le (Decoder.movesLeft_proceed_le (d.init t))
  | cn | hd => exact Nat.lt_succ_self _
  | test =>
    rw [Decoder.move]
    split
    · exact Nat.succ_pos _
    · simp only [Decoder.movesLeft, Decoder.test_iters, Decoder.test_nit]
      omega
  | vn => exact Nat.lt_succ_of_le (Decoder.movesLeft_proceed_le (d.variableUpdate t))
  | finish => exact absurd rfl h

theorem Running.movesLeft_advance_lt {r : Running} (h : r.phase ≠ .finish) (s : State) :
    (r.advance s).movesLeft < r.movesLeft := by
  obtain ⟨i, ph, work⟩ := r
  cases work with
  | check | crc14 | tanh => simp [Running.advance, Running.movesLeft, show ph ≠ .finish from h]
  | decode d => exact Decoder.movesLeft_move_lt s.rom d h
  | gjInvert gr rows labels failed =>
    rw [Running.advance, Running.movesLeft, Running.movesLeft]
    simp only [if_neg h]
    rcases gjMove_cases gr ⟨rows, labels⟩ with hmove | ⟨g', _, hmove⟩ <;> simp only [hmove]
    · simp
    · by_cases hlt : gr + 1 < 91 <;> simp [hlt]
      omega

/-- The block is idle with `DONE` set after finitely many moves. -/
theorem State.exists_engineMoves_complete {s : State} {r : Running} (h : s.engine = some r) :
    ∃ n, (State.engineMoves n s).busy = false ∧ (State.engineMoves n s).done = true := by
  induction hk : r.movesLeft using Nat.strong_induction_on generalizing s r with
  | _ k ih =>
    by_cases hphase : r.phase = .finish
    · refine ⟨1, ?_⟩
      rw [State.engineMoves, State.engineMoves, State.engineMove_finish h hphase]
      exact ⟨State.deliver_busy _ _, State.deliver_done _ _⟩
    · obtain ⟨n, hn⟩ := ih _ (hk ▸ Running.movesLeft_advance_lt hphase s)
        (s := { s with engine := some (r.advance s) }) rfl rfl
      refine ⟨n + 1, ?_⟩
      rwa [State.engineMoves, State.engineMove_work h hphase]

theorem State.engineMove_turns (s : State) : s.engineMove.turns = s.turns := by
  rcases s.engineMove_cases with ⟨_, hmove⟩ | ⟨r, _, _, hmove⟩ | ⟨r, _, _, hmove⟩ <;> rw [hmove]
  exact s.deliver_turns _

/-- With no turn to come every step is a move of the ENGINE. -/
theorem run_eq_engineMoves {s : State} (h : s.turns = []) (n : Nat) :
    core.run n s = .next (State.engineMoves n s) := by
  induction n generalizing s with
  | zero => rfl
  | succ n ih =>
    have hstep : step s = .next s.engineMove := by simp only [step, takeTurn, h]
    have hrun : core.run (n + 1) s = core.run n s.engineMove := by
      simp only [Host.Core.run, show core.step s = .next s.engineMove from hstep]
    exact hrun.trans (ih (s.engineMove_turns.trans h))

/-- Settles O38: each move of the ENGINE takes one off the moves left to FINISH. -/
theorem runningCommandCompletes : Obligations.RunningCommandCompletes := by
  intro s hbusy hturns
  obtain ⟨r, hr⟩ := Option.isSome_iff_exists.mp hbusy
  obtain ⟨n, hidle, hdone⟩ := State.exists_engineMoves_complete hr
  exact ⟨n, _, run_eq_engineMoves hturns n, hidle, hdone⟩

end Sys2Proof.Machine
end

section
/-!
PROOF. The corner cases of the score (40_parity_check.md R166 to R170): the parities of a word with no 1, with one, and
with nothing but ones follow from the shape of the tables.
-/
namespace Sys2Proof.Machine

theorem scoreOf_eq_countP (t : Tables) (c : Bits174) :
    scoreOf t c = (List.range 83).countP fun j => (row t j).countP (c.getLsbD ·) % 2 == 0 := by
  simp only [scoreOf, not_parity_eq, List.countP_eq_length_filter]

theorem scoreOf_zero (t : Tables) : scoreOf t 0 = 83 := by
  simp [scoreOf_eq_countP]

/-- Every bit of a check counts, so the even checks are those of weight 6. -/
theorem scoreOf_allOnes (t : Tables) : scoreOf t (BitVec.allOnes 174) = 59 := by
  have hsix := (tannerGraphCounts t).2.2
  rw [← List.countP_eq_length_filter] at hsix
  rw [scoreOf_eq_countP, ← hsix]
  refine List.countP_congr fun j hj => ?_
  obtain ⟨-, hweight, hlt⟩ := row_spec t j (List.mem_range.mp hj)
  have hall : (row t j).countP ((BitVec.allOnes 174).getLsbD ·) = (row t j).length :=
    List.countP_eq_length.mpr fun i hi => BitVec.getLsbD_allOnes.trans (decide_eq_true (hlt i hi))
  rw [hall]
  rcases hweight with h | h <;> simp [h]

/-- A bit is in as many checks as it has entries in `Mn`, three (40_parity_check.md R162 item 2). -/
theorem countP_mem_row (t : Tables) {b : Nat} (hb : b < 174) : (List.range 83).countP (b ∈ row t ·) = 3 := by
  obtain ⟨hnodup, hthree, hlt⟩ := col_spec t b hb
  have hperm : ((List.range 83).filter (b ∈ row t ·)).Perm (col t b) := by
    refine (List.perm_ext_iff_of_nodup (List.nodup_range.filter _) hnodup).mpr fun j => ?_
    simp only [List.mem_filter, List.mem_range, decide_eq_true_eq]
    have hedge := fun hj => mem_row_iff_mem_col t b j hb hj
    exact ⟨fun ⟨hj, h⟩ => (hedge hj).mp h, fun h => ⟨hlt j h, (hedge (hlt j h)).mpr h⟩⟩
  rw [List.countP_eq_length_filter, hperm.length_eq, hthree]

theorem countP_row_twoPow (t : Tables) {b j : Nat} (hb : b < 174) (hj : j < 83) :
    (row t j).countP ((BitVec.twoPow 174 b).getLsbD ·) = if b ∈ row t j then 1 else 0 := by
  obtain ⟨hnodup, -, -⟩ := row_spec t j hj
  rw [← hnodup.count]
  refine List.countP_congr fun i _ => ?_
  rw [BitVec.getLsbD_twoPow, decide_eq_true hb, Bool.true_and, decide_eq_true_iff, beq_iff_eq, eq_comm]

/-- The single 1 makes its three checks odd. -/
theorem scoreOf_twoPow (t : Tables) {b : Nat} (hb : b < 174) : scoreOf t (BitVec.twoPow 174 b) = 80 := by
  have hodd := countP_mem_row t hb
  have hsplit := List.length_eq_countP_add_countP (b ∈ row t ·) (l := List.range 83)
  simp only [List.length_range, hodd, decide_eq_true_eq] at hsplit
  have heven : scoreOf t (BitVec.twoPow 174 b) = (List.range 83).countP fun j => ¬ (b ∈ row t j) := by
    rw [scoreOf_eq_countP]
    refine List.countP_congr fun j hj => ?_
    rw [countP_row_twoPow t hb (List.mem_range.mp hj)]
    split <;> simp [*]
  omega

/-- Settles O14: the parities of the three kinds of word, check by check. -/
theorem checkCornerCases : Obligations.CheckCornerCases :=
  fun t => ⟨scoreOf_zero t, fun _ hb => scoreOf_twoPow t hb, scoreOf_allOnes t⟩

end Sys2Proof.Machine
end

section
/-!
PROOF. The commands that write registers only (10_state.md R82): CHECK, CRC14 and TANH answer the accepted state with one
register written and `DONE` set, for the operand that a host reads in their input words.
-/
namespace Sys2Proof.Machine

/-! ### Completion and operands -/

/-- A ready command answers the accepted state with its outputs written and `DONE` set. -/
theorem exec_ready_outputs {i : Instr} {s : State} (h : Ready i s) :
    exec i s = .next { (s.accept i).writeOutputs (finalWork i s) with done := true } := by
  have hengine : ((s.accept i).writeOutputs (finalWork i s)).engine = none := by
    rw [State.writeOutputs_engine, State.accept_engine, State.engine_of_idle h.1]
  rw [exec_ready h, State.deliver, State.complete, ← hengine]

/-- The value of a buffer word a host can read is the operand's. -/
theorem State.word_of_readLoc {s : State} {l : Loc} {v : Word} (hl : l.isBuffer = true) (h : s.readLoc l = some v) :
    s.word l = v := by
  rw [State.word, ← s.readLoc_of_isBuffer hl, h, Option.getD_some]

theorem State.written_of_readLoc {s : State} {l : Loc} {v : Word} (hl : l.isBuffer = true) (h : s.readLoc l = some v) :
    s.written l = true := by
  rw [State.written, ← s.readLoc_of_isBuffer hl, h, Option.isSome_some]

/-! ### CHECK and CRC14 -/

/-- Settles O13: the word CHECK scores is the one packed in `HARD`. -/
theorem checkWritesScore : Obligations.CheckWritesScore := by
  intro s h hidle hread
  have hready : Ready .check s := by
    refine ⟨hidle, rfl, fun l hl => ?_⟩
    obtain ⟨w, hw, rfl⟩ := List.mem_map.mp hl
    exact State.written_of_readLoc rfl (hread w (List.mem_range.mp hw))
  refine ⟨s.hardWord, fun i hi => ?_, exec_ready_outputs hready⟩
  rw [s.getLsbD_hardWord i hi, State.word_of_readLoc rfl (hread (i / 32) (by omega))]

/-- Settles O29: bit `13 - k` of `CRC_OUT` is bit `k` of the CRC of the bits packed in `CRC_MSG`. -/
theorem crcWritesResult : Obligations.CrcWritesResult := by
  intro s n m hidle hn hread
  have hready : Ready (.crc14 n) s := by
    refine ⟨hidle, decide_eq_true hn, fun l hl => ?_⟩
    obtain ⟨w, hw, rfl⟩ := List.mem_map.mp hl
    exact State.written_of_readLoc rfl (hread w (List.mem_range.mp hw))
  have hmsg : s.crcMsg n.toNat = (List.range n.toNat).map fun k => (m (k / 32)).getLsbD (k % 32) := by
    refine List.map_congr_left fun k hk => ?_
    have hk := List.mem_range.mp hk
    rw [State.word_of_readLoc rfl (hread (k / 32) (by omega))]
  refine ⟨packCrc (crcFn (s.crcMsg n.toNat)), fun k hk => ?_, ?_⟩
  · rw [packCrc, getLsbD_bitsLE, decide_eq_true (by omega), Bool.true_and, ← hmsg, Nat.sub_sub_self (by omega)]
  · have hlen : (s.crcMsg n.toNat).length = n.toNat := by simp [State.crcMsg]
    rw [exec_ready_outputs hready, crcFn, hlen]
    rfl

/-! ### TANH -/

theorem State.tanhX_of_readLoc {s : State} {hi lo : Word} (hhi : s.readLoc (.tanhX true) = some hi)
    (hlo : s.readLoc (.tanhX false) = some lo) : s.tanhX = ⟨hi ++ lo⟩ := by
  rw [State.tanhX, State.word_of_readLoc rfl hhi, State.word_of_readLoc rfl hlo]

theorem ready_tanh {s : State} {hi lo : Word} (hidle : s.busy = false) (hhi : s.readLoc (.tanhX true) = some hi)
    (hlo : s.readLoc (.tanhX false) = some lo) : Ready .tanh s := by
  refine ⟨hidle, rfl, fun l hl => ?_⟩
  obtain rfl | rfl := List.mem_pair.mp hl
  · exact State.written_of_readLoc rfl hlo
  · exact State.written_of_readLoc rfl hhi

theorem freeNaN_isNaN (n : Nat) : (freeNaN n).isNaN = true := by
  unfold freeNaN
  split
  · assumption
  · decide

/-- Settles O25: TANH writes its value, or the next free NaN where the value is one. -/
theorem tanhWritesResult : Obligations.TanhWritesResult := by
  intro s hi lo hidle hhi hlo
  have hexec := exec_ready_outputs (ready_tanh hidle hhi hlo)
  rw [finalWork, State.tanhX_of_readLoc hhi hlo, State.writeOutputs] at hexec
  refine ⟨fun hnumber => ?_, fun hnan => ⟨freeNaN s.draws, freeNaN_isNaN _, ?_⟩⟩
  · rw [hexec, hnumber, if_neg Bool.false_ne_true]
    rfl
  · rw [hexec, if_pos hnan]
    rfl

end Sys2Proof.Machine
end

section
/-!
PROOF. A decode that runs no iteration, and what every decode leaves alone (41_scheduler.md section 1; 10_state.md R82).
-/
namespace Sys2Proof.Machine

/-! ### No iteration -/

/-- A budget of 0 emits the seed. -/
theorem run_zero_result (dom : Domain) (t : Tables) (lc : List F64) :
    (Decoder.run dom 0 t lc).result = (signDecode lc, scoreOf t (signDecode lc), 0) :=
  run_result_of_exhausted fun _ hpos hle => absurd (hpos.trans hle) (by decide)

theorem State.getD_llrs (s : State) {i : Nat} (h : i < 174) : s.llrs.getD i F64.zero = s.llr i := by
  simp [State.llrs, h]

/-- Settles O18: the seed is the sign decode. -/
theorem zeroBudgetDecode : Obligations.ZeroBudgetDecode := by
  intro dom s hready
  have hresult : (Decoder.run dom (0 : BitVec 16).toNat s.rom s.llrs).result = _ :=
    run_zero_result dom s.rom s.llrs
  refine ⟨_, exec_decodeInstr_ready hready, fun i hi => ?_, ?_, ?_⟩
  · rw [State.deliver_decode_hardWord, hresult, signDecode, getLsbD_bitsLE, decide_eq_true hi,
      Bool.true_and, s.getD_llrs hi]
  · rw [State.deliver_decode_score, State.deliver_decode_hardWord, Decoder.run_result_score]
  · rw [State.deliver_decode_itersRun, hresult]
    rfl

/-! ### The frame of a decode -/

/-- Storing words changes the storage only. -/
theorem State.exists_storeAll_eq (s : State) (ws : List (Loc × Word)) : ∃ m, s.storeAll ws = { s with mem := m } := by
  induction ws generalizing s with
  | nil => exact ⟨s.mem, rfl⟩
  | cons w ws ih => exact ih (s.store w.1 w.2)

/-- All that the delivery of a decode changes. -/
theorem State.exists_deliver_decode_eq (s : State) (d : Decoder) :
    ∃ m score itersRun, s.deliver (.decode d) =
      { s with mem := m, score := score, itersRun := itersRun, engine := none, done := true } := by
  obtain ⟨m, hm⟩ := s.exists_storeAll_eq ((List.range 6).map fun w => (.hard w, packedWord d.result.1 w))
  refine ⟨m, BitVec.ofNat 7 d.result.2.1, BitVec.ofNat 16 d.result.2.2, ?_⟩
  rw [State.deliver, State.writeOutputs, State.writeHard, hm]
  rfl

/-- A byte outside the words a command's work stores to reads as before. -/
theorem State.readByte_deliver (s : State) (w : Work) {a : Nat} (h : ∀ l ∈ w.stores, ¬ l.covers a) :
    (s.deliver w).readByte a = s.readByte a :=
  (State.readByte_congr (s.deliver_mem w) a).trans (s.readByte_writeOutputs w a h)

/-- Settles O21: delivery changes nothing else, and the storage changes in the words of `HARD`. -/
theorem decodeFrame : Obligations.DecodeFrame := by
  intro dom iters s hready
  have hbytes {a : Nat} (h : ∀ w < 6, ¬ (Loc.hard w).covers a) (d : Decoder) :
      ((s.accept (decodeInstr dom iters)).deliver (.decode d)).readByte a = s.readByte a := by
    refine State.readByte_deliver _ _ fun l hl => ?_
    obtain ⟨w, hw, rfl⟩ := List.mem_map.mp hl
    exact h w (List.mem_range.mp hw)
  refine ⟨_, exec_decodeInstr_ready hready, ?_⟩
  obtain ⟨m, score, itersRun, hdeliver⟩ := (s.accept (decodeInstr dom iters)).exists_deliver_decode_eq
    (Decoder.run dom iters.toNat s.rom s.llrs)
  refine ⟨?_, ?_, ?_, ?_, ?_, ?_, ?_, ?_, ?_, ?_, fun a h => hbytes h _⟩ <;> rw [hdeliver] <;> rfl

end Sys2Proof.Machine
end

section
/-!
PROOF. Special values of binary64 in the engines (43_decode_llr.md R222, R225; 44_tanh.md section 1): a NaN goes through
every operation, and the clamp and the saturation tests come before the arithmetic.
-/
namespace Sys2Proof

/-! ### NaNs -/

theorem F64.value_of_isNaN {x : F64} (h : x.isNaN = true) : x.value = .nan := by
  simp only [isNaN, Bool.and_eq_true, beq_iff_eq, bne_iff_ne] at h
  rw [value, if_pos h.1, if_neg h.2]

theorem F64.nan_isNaN : F64.nan.isNaN = true := by decide

theorem F64.add_of_isNaN (x : F64) {y : F64} (h : y.isNaN = true) : x.add y = nan := by
  rw [add, value_of_isNaN h]
  cases x.value <;> rfl

theorem F64.mul_of_isNaN (x : F64) {y : F64} (h : y.isNaN = true) : x.mul y = nan := by
  rw [mul, value_of_isNaN h]
  cases x.value <;> rfl

theorem F64.div_of_isNaN (x : F64) {y : F64} (h : y.isNaN = true) : x.div y = nan := by
  rw [div, value_of_isNaN h]
  cases x.value <;> rfl

theorem F64.log_of_isNaN {x : F64} (h : x.isNaN = true) : x.log = nan := by
  rw [log, if_pos h]

theorem F64.le_of_isNaN_left {x : F64} (y : F64) (h : x.isNaN = true) : x.le y = false := by
  simp [le, h]

theorem F64.le_of_isNaN_right (x : F64) {y : F64} (h : y.isNaN = true) : x.le y = false := by
  simp [le, h]

theorem F64.lt_of_isNaN_left {x : F64} (y : F64) (h : x.isNaN = true) : x.lt y = false := by
  simp [lt, h]

theorem F64.lt_of_isNaN_right (x : F64) {y : F64} (h : y.isNaN = true) : x.lt y = false := by
  simp [lt, h]

namespace Machine

/-! ### The clamp -/

theorem clampedLog_of_ge {a : F64} (h : F64.c0_999.le a = true) : clampedLog a = F64.c7_6 := by
  rw [clampedLog, if_pos h]

/-- At or below -0.999 a value is not at or above 0.999. -/
theorem c0_999_le_eq_false {a : F64} (h : a.le F64.c0_999.neg = true) : F64.c0_999.le a = false := by
  have hkey : F64.c0_999.orderKey = 0x3FEFF7CED916872B := by decide
  simp only [F64.le, Bool.and_eq_true, decide_eq_true_eq, F64.neg_orderKey, hkey] at h
  rw [F64.le, hkey, decide_eq_false (by omega), Bool.and_false]

theorem clampedLog_of_le {a : F64} (h : a.le F64.c0_999.neg = true) : clampedLog a = F64.c7_6.neg := by
  rw [clampedLog, c0_999_le_eq_false h, if_neg Bool.false_ne_true, if_pos h]

theorem clampedLog_of_isNaN {a : F64} (h : a.isNaN = true) : clampedLog a = F64.nan := by
  have hsub : F64.one.sub a = F64.nan := F64.add_of_isNaN _ (by rwa [F64.neg_isNaN])
  rw [clampedLog, F64.le_of_isNaN_right _ h, F64.le_of_isNaN_left _ h, if_neg Bool.false_ne_true,
    if_neg Bool.false_ne_true, hsub, F64.div_of_isNaN _ F64.nan_isNaN, F64.log_of_isNaN F64.nan_isNaN]

/-- Settles O24: the two tests come first, and both fail for a NaN. -/
theorem clampBeforeLog : Obligations.ClampBeforeLog := by
  refine fun a => ⟨fun h => clampedLog_of_ge h, fun h => clampedLog_of_le h, fun h => ?_⟩
  rw [clampedLog_of_isNaN h, F64.nan_isNaN]

/-! ### The approximator -/

theorem tanhApprox_of_isNaN {x : F64} (h : x.isNaN = true) : tanhApprox x = F64.nan := by
  have hden : tanhDen F64.nan = F64.nan := by
    rw [tanhDen, F64.mul_of_isNaN _ F64.nan_isNaN, F64.add_of_isNaN _ F64.nan_isNaN, F64.mul_of_isNaN _ F64.nan_isNaN,
      F64.add_of_isNaN _ F64.nan_isNaN, F64.mul_of_isNaN _ F64.nan_isNaN, F64.add_of_isNaN _ F64.nan_isNaN]
  rw [tanhApprox, F64.lt_of_isNaN_left _ h, F64.lt_of_isNaN_right _ h, if_neg Bool.false_ne_true,
    if_neg Bool.false_ne_true, F64.mul_of_isNaN _ h, hden, F64.div_of_isNaN _ F64.nan_isNaN]

/-- Settles O26: the infinities saturate, the zeros come through the quotient, and a NaN through every operation. -/
theorem tanhSpecialInputs : Obligations.TanhSpecialInputs := by
  refine ⟨by decide, by decide, by decide +kernel, by decide +kernel, fun x h => ?_⟩
  rw [tanhApprox_of_isNaN h, F64.nan_isNaN]

/-- Settles O28: eleven closed evaluations. -/
theorem tanhTableValues : Obligations.TanhTableValues := by
  unfold Obligations.TanhTableValues
  decide +kernel

end Machine

end Sys2Proof
end

section
/-!
PROOF. A decode of LLRs that are all +10.0 (95_test_vectors.md 2.6 DL2): every check message is clamped to 7.6, so every
sum of the first iteration is positive, whatever the tables are.
-/
namespace Sys2Proof.Machine

/-! ### Folds over equal values -/

/-- A fold whose terms are all equal depends on their number only. -/
theorem foldl_eq_foldl_replicate {α β : Type} (op : β → β → β) (f : α → β) {c : β} {l : List α}
    (h : ∀ x ∈ l, f x = c) (b : β) :
    l.foldl (fun a x => op a (f x)) b = (List.replicate l.length c).foldl op b := by
  rw [← List.foldl_map, List.map_eq_replicate_iff.mpr h]

/-! ### The messages -/

/-- +10.0. -/
def tenLlr : F64 := ⟨0x4024000000000000#64⟩

section
variable {t : Tables} {i j : Nat}

/-- A check has five or six bits besides one of its own. -/
theorem length_filter_row (hj : j < 83) (hi : i ∈ row t j) :
    ((row t j).filter (· ≠ i)).length = 5 ∨ ((row t j).filter (· ≠ i)).length = 6 := by
  obtain ⟨hnodup, hweight, -⟩ := row_spec t j hj
  have herase : (row t j).erase i = (row t j).filter (· ≠ i) :=
    (hnodup.erase_eq_filter i).trans (List.filter_congr fun _ _ => by simp [bne, beq_eq_decide])
  rw [← herase, List.length_erase_of_mem hi]
  omega

/-- The product of five or six factors `tanh 5.0` is above 0.999, so the message is clamped (43_decode_llr.md R222). -/
theorem cnLlr_of_tens {m : List (List F64)} (hj : j < 83) (hi : i ∈ row t j)
    (hm : ∀ i' ∈ row t j, message t m j i' = tenLlr) : cnLlr t m j i = F64.c7_6 := by
  have hfive : F64.c0_999.le ((List.replicate 5 (tanhApprox (tenLlr.div F64.two))).foldl F64.mul F64.one) = true := by
    decide +kernel
  have hsix : F64.c0_999.le ((List.replicate 6 (tanhApprox (tenLlr.div F64.two))).foldl F64.mul F64.one) = true := by
    decide +kernel
  rw [cnLlr, foldl_eq_foldl_replicate F64.mul (fun i2 => tanhApprox ((message t m j i2).div F64.two))
    fun i' hi' => by rw [hm i' (List.mem_of_mem_filter hi')]]
  refine clampedLog_of_ge ?_
  rcases length_filter_row hj hi with h | h <;> rw [h]
  · exact hfive
  · exact hsix

/-- The sum of a bit is `10.0 + 7.6 + 7.6 + 7.6`, rounded at each step. -/
theorem hdLlr_of_tens {lc : List F64} {e : List (List F64)} (hi : i < 174) (hlc : lc.getD i F64.zero = tenLlr)
    (he : ∀ j ∈ col t i, message t e j i = F64.c7_6) : hdLlr t lc e i = false := by
  have hsum : ((List.replicate 3 F64.c7_6).foldl F64.add tenLlr).le F64.zero = false := by decide +kernel
  rw [hdLlr, llrSum, hlc, foldl_eq_foldl_replicate F64.add (fun j => message t e j i) he, (col_spec t i hi).2.1, hsum]

end

/-! ### The decode -/

section
variable {t : Tables} {lc : List F64} (hlc : ∀ i < 174, lc.getD i F64.zero = tenLlr)
include hlc

theorem hardDecisionAt_one_of_tens : hardDecisionAt .llr t lc 1 = 0 := by
  apply BitVec.eq_of_getLsbD_eq
  intro i hi
  have hdecide : hdLlr t lc (onEdges t (cnLlr t (onEdges t fun _ i => lc.getD i F64.zero))) i = false := by
    refine hdLlr_of_tens hi (hlc i hi) fun j hj => ?_
    have hj83 := (col_spec t i hi).2.2 j hj
    have hedge := (mem_row_iff_mem_col t i j hi hj83).mpr hj
    rw [message_onEdges _ _ _ _ hj83 hedge]
    refine cnLlr_of_tens hj83 hedge fun i' hi' => ?_
    rw [message_onEdges _ _ _ _ hj83 hi', hlc i' ((row_spec t j hj83).2.2 i' hi')]
  rw [hardDecisionAt, Function.iterate_one, plainIteration, Decoder.variableUpdate, Decoder.hardDecision,
    getLsbD_bitsLE]
  exact (congrArg _ hdecide).trans (by simp)

end

/-- Settles O22: the first iteration decides the zero word, which scores 83. -/
theorem allTensDecodeToZero : Obligations.AllTensDecodeToZero := by
  intro iters s hready hpos hten
  have hzero : hardDecisionAt .llr s.rom s.llrs 1 = 0 :=
    hardDecisionAt_one_of_tens fun i hi => (s.getD_llrs hi).trans (hten i hi)
  have hbudget : 1 ≤ iters.toNat := Nat.one_le_iff_ne_zero.mpr fun h => hpos (BitVec.eq_of_toNat_eq h)
  have hresult := run_result_of_first (dom := .llr) le_rfl hbudget
    (by rw [hzero, scoreOf_zero]) (fun k' h1 h2 => absurd h1 (by omega))
  rw [hzero] at hresult
  refine ⟨_, exec_decodeInstr_ready (dom := .llr) hready, ?_, ?_, ?_⟩
  · rw [State.deliver_decode_hardWord, hresult]
  · rw [State.deliver_decode_score, hresult]
    rfl
  · rw [State.deliver_decode_itersRun, hresult]
    rfl

end Sys2Proof.Machine
end

section
/-!
PROOF. GJ_INVERT as a sweep (46_gauss_jordan.md R274 to R276): its work is a fold of the pivot step, which permutes the
labels and never fills an empty column; and what its delivery leaves alone.
-/
namespace Sys2Proof.Machine

/-! ### The sweep as a fold -/

theorem foldlM_step_succ (n r : Nat) (g : Gj) :
    (List.range' r (n + 1)).foldlM Gj.step g = (g.step r).bind ((List.range' (r + 1) n).foldlM Gj.step) := by
  rw [List.range'_succ, List.foldlM_cons]
  rfl

/-- A sweep whose steps all find a pivot ends with what they give. -/
theorem gjSweep_of_foldlM_eq_some {n r : Nat} {g g' : Gj} (h : (List.range' r n).foldlM Gj.step g = some g') :
    gjSweep n r g = .gjInvert (r + n) g'.rows g'.labels false := by
  induction n generalizing r g with
  | zero =>
    cases h
    rfl
  | succ n ih =>
    rw [foldlM_step_succ] at h
    obtain ⟨g₁, hstep, hrest⟩ := Option.bind_eq_some_iff.mp h
    simp only [gjSweep, hstep]
    rw [ih hrest, Nat.add_right_comm, Nat.add_assoc]

/-- A sweep one of whose steps finds none ends as failed. -/
theorem gjSweep_of_foldlM_eq_none {n r : Nat} {g : Gj} (h : (List.range' r n).foldlM Gj.step g = none) :
    ∃ gr rows labels, gjSweep n r g = .gjInvert gr rows labels true := by
  induction n generalizing r g with
  | zero => cases h
  | succ n ih =>
    rw [foldlM_step_succ] at h
    rw [gjSweep]
    cases hstep : g.step r with
    | none => exact ⟨_, _, _, rfl⟩
    | some g' =>
      rw [hstep] at h
      exact ih h

theorem exists_gjSweep_eq (n r : Nat) (g : Gj) :
    ∃ gr rows labels failed, gjSweep n r g = .gjInvert gr rows labels failed := by
  cases h : (List.range' r n).foldlM Gj.step g with
  | none =>
    obtain ⟨gr, rows, labels, hsweep⟩ := gjSweep_of_foldlM_eq_none h
    exact ⟨gr, rows, labels, true, hsweep⟩
  | some g' => exact ⟨_, _, _, _, gjSweep_of_foldlM_eq_some h⟩

/-! ### Steps permute the labels -/

theorem swapAt_perm {α : Type} {l : List α} (zero : α) {a b : Nat} (ha : a < l.length) (hb : b < l.length) :
    (swapAt l zero a b).Perm l := by
  rw [swapAt, List.getD_eq_getElem _ _ ha, List.getD_eq_getElem _ _ hb]
  exact List.set_set_perm ha hb

theorem Gj.pivot_perm {g p : Gj} {r : Nat} (h : g.pivot r = some p) (hlabels : g.labels.length = 174) :
    p.rows.length = g.rows.length ∧ p.labels.Perm g.labels := by
  rcases Gj.pivot_cases h with ⟨rfl, _⟩ | ⟨k, hrk, hk, _, rfl⟩
  · exact ⟨rfl, .rfl⟩
  · exact ⟨swapAt_length _ _ _ _, swapAt_perm _ (by omega) (by omega)⟩

theorem Gj.step_perm {g g' : Gj} {r : Nat} (h : g.step r = some g') (hlabels : g.labels.length = 174) :
    g'.rows.length = g.rows.length ∧ g'.labels.Perm g.labels := by
  obtain ⟨p, hp, rfl⟩ := Option.map_eq_some_iff.mp h
  obtain ⟨hrows, hperm⟩ := Gj.pivot_perm hp hlabels
  exact ⟨by simp [Gj.eliminate, Gj.toggle, hrows], hperm⟩

theorem foldlM_step_perm {n r : Nat} {g g' : Gj} (h : (List.range' r n).foldlM Gj.step g = some g')
    (hlabels : g.labels.length = 174) : g'.rows.length = g.rows.length ∧ g'.labels.Perm g.labels := by
  induction n generalizing r g with
  | zero =>
    cases h
    exact ⟨rfl, .rfl⟩
  | succ n ih =>
    rw [foldlM_step_succ] at h
    obtain ⟨g₁, hstep, hrest⟩ := Option.bind_eq_some_iff.mp h
    obtain ⟨hrows, hperm⟩ := Gj.step_perm hstep hlabels
    obtain ⟨hrows', hperm'⟩ := ih hrest (hperm.length_eq.trans hlabels)
    exact ⟨hrows'.trans hrows, hperm'.trans hperm⟩

/-! ### An empty column stays empty -/

/-- Column `c` of a matrix of 174 rows is zero. -/
def Gj.ZeroColumn (g : Gj) (c : Nat) : Prop := g.rows.length = 174 ∧ ∀ k, g.bit k c = false

theorem Gj.ZeroColumn.pivot_eq_none {g : Gj} {c : Nat} (h : g.ZeroColumn c) : g.pivot c = none := by
  rw [Gj.pivot, h.2, if_neg Bool.false_ne_true, Gj.findPivot, Option.map_eq_none_iff, List.find?_eq_none]
  exact fun k _ => ne_true_of_eq_false (h.2 k)

theorem Gj.ZeroColumn.step {g g' : Gj} {c r : Nat} (h : g.ZeroColumn c) (hc : c < 91) (hr : r < 91)
    (hstep : g.step r = some g') : g'.ZeroColumn c := by
  obtain ⟨p, hp, rfl⟩ := Option.map_eq_some_iff.mp hstep
  obtain ⟨hrows, hzero⟩ := h
  have hpivot : p.ZeroColumn c := by
    rcases Gj.pivot_cases hp with ⟨rfl, _⟩ | ⟨k, hrk, hk, _, rfl⟩
    · exact ⟨hrows, hzero⟩
    · exact ⟨(swapAt_length _ _ _ _).trans hrows, fun j => by rw [Gj.swap_bit (by omega) (by omega), hzero]⟩
  have htoggle (j : Nat) : (p.toggle r).bit j c = false := by
    rw [Gj.toggle_bit (by rw [hpivot.1]; omega) hr, hpivot.2, decide_eq_false (by omega), Bool.xor_self]
  refine ⟨by simp [Gj.eliminate, Gj.toggle, hpivot.1], fun j => ?_⟩
  rw [Gj.eliminate_bit, htoggle, htoggle, Bool.and_false, Bool.xor_self]

/-- No pivot is found in the empty column, if the sweep comes to it. -/
theorem Gj.ZeroColumn.foldlM_step_eq_none {n r : Nat} {g : Gj} {c : Nat} (h : g.ZeroColumn c) (hc : c < 91)
    (hrc : r ≤ c) (hcn : c < r + n) : (List.range' r n).foldlM Gj.step g = none := by
  induction n generalizing r g with
  | zero => omega
  | succ n ih =>
    rw [foldlM_step_succ]
    cases hstep : g.step r with
    | none => rfl
    | some g' =>
      rcases Nat.lt_or_eq_of_le hrc with hlt | rfl
      · exact ih (h.step hc (by omega) hstep) hlt (by omega)
      · simp [Gj.step, h.pivot_eq_none] at hstep

/-! ### The command -/

section
variable {s : State}

/-- GJ_INVERT where every pivot is found. -/
theorem exec_gjInvert_of_some (hready : Ready .gjInvert s) {g : Gj} (h : (List.range 91).foldlM Gj.step s.gj = some g) :
    exec .gjInvert s = .next ((s.accept .gjInvert).deliver (.gjInvert 91 g.rows g.labels false)) := by
  rw [List.range_eq_range'] at h
  rw [exec_ready hready, finalWork, ← State.gj, gjSweep_of_foldlM_eq_some h]

/-- GJ_INVERT where a pivot is not found. -/
theorem exec_gjInvert_of_none (hready : Ready .gjInvert s) (h : (List.range 91).foldlM Gj.step s.gj = none) :
    ∃ gr rows labels,
      exec .gjInvert s = .next ((s.accept .gjInvert).deliver (.gjInvert gr rows labels true)) := by
  rw [List.range_eq_range'] at h
  obtain ⟨gr, rows, labels, hsweep⟩ := gjSweep_of_foldlM_eq_none h
  exact ⟨gr, rows, labels, by rw [exec_ready hready, finalWork, ← State.gj, hsweep]⟩

theorem State.gj_rows_length (s : State) : s.gj.rows.length = 174 := by simp [State.gj, State.gjRows]

theorem State.gj_labels_length (s : State) : s.gj.labels.length = 174 := by simp [State.gj, State.labels]

/-- The sweep gives as many rows as it got, and the labels it got in some order. -/
theorem gj_of_foldlM {g : Gj} (h : (List.range 91).foldlM Gj.step s.gj = some g) :
    g.rows.length = 174 ∧ g.labels.length = 174 ∧ g.labels.Perm s.labels := by
  rw [List.range_eq_range'] at h
  obtain ⟨hrows, hperm⟩ := foldlM_step_perm h s.gj_labels_length
  exact ⟨hrows.trans s.gj_rows_length, hperm.length_eq.trans s.gj_labels_length, hperm⟩

theorem State.draws_deliver_gjDone (s : State) (gr : Nat) (rows : List GjRow) (labels : List Label) :
    (s.deliver (.gjInvert gr rows labels false)).draws = s.draws := by
  rw [State.deliver, State.complete_draws, State.writeOutputs, if_neg Bool.false_ne_true, State.setGjOk_draws,
    State.writeGj_draws]

/-- Settles O32: the work of GJ_INVERT is the fold, and a matrix written back reads as it was written. -/
theorem gjRunsSweep : Obligations.GjRunsSweep := by
  intro s hready
  cases h : (List.range 91).foldlM Gj.step ⟨s.gjRows, s.labels⟩ with
  | none =>
    obtain ⟨gr, rows, labels, hexec⟩ := exec_gjInvert_of_none hready h
    exact ⟨_, hexec, State.deliver_done _ _, State.deliver_busy _ _, by rw [State.deliver_err, State.accept_err],
      State.gjOk_deliver _ _ _ _ _⟩
  | some g =>
    obtain ⟨hrows, hlabels, -⟩ := gj_of_foldlM h
    have hgj := (s.accept .gjInvert).gj_deliver 91 hrows hlabels
    refine ⟨_, exec_gjInvert_of_some hready h, State.deliver_done _ _, State.deliver_busy _ _,
      by rw [State.deliver_err, State.accept_err], State.gjOk_deliver _ _ _ _ _, congrArg Gj.rows hgj,
      congrArg Gj.labels hgj, ?_⟩
    rw [State.draws_deliver_gjDone, State.accept_draws]

/-- Settles O34: a success is a fold of steps that permute the labels. -/
theorem gjPermutesLabels : Obligations.GjPermutesLabels := by
  intro s t hready hexec hok
  cases h : (List.range 91).foldlM Gj.step s.gj with
  | none =>
    obtain ⟨gr, rows, labels, hfail⟩ := exec_gjInvert_of_none hready h
    rw [hfail] at hexec
    obtain rfl := Host.Outcome.next.inj hexec
    rw [State.gjOk_deliver] at hok
    cases hok
  | some g =>
    obtain ⟨hrows, hlabels, hperm⟩ := gj_of_foldlM h
    rw [exec_gjInvert_of_some hready h] at hexec
    obtain rfl := Host.Outcome.next.inj hexec
    have hgj := (s.accept .gjInvert).gj_deliver 91 hrows hlabels
    rwa [← congrArg Gj.labels hgj] at hperm

/-- Settles O35: the step at the zero column finds no pivot, if an earlier one does not fail. -/
theorem gjZeroColumnFails : Obligations.GjZeroColumnFails := by
  intro s c hready hc hzero
  have hcolumn : s.gj.ZeroColumn c := by
    refine ⟨s.gj_rows_length, fun k => ?_⟩
    by_cases hk : k < 174
    · rw [s.gj_bit hk, hzero k hk]
    · rw [Gj.bit, Gj.row, List.getD_eq_default _ _ (by rw [s.gj_rows_length]; omega)]
      simp
  have hnone : (List.range 91).foldlM Gj.step s.gj = none := by
    rw [List.range_eq_range']
    exact hcolumn.foldlM_step_eq_none hc (Nat.zero_le c) (by omega)
  obtain ⟨gr, rows, labels, hexec⟩ := exec_gjInvert_of_none hready hnone
  exact ⟨_, hexec, State.gjOk_deliver _ _ _ _ _, State.deliver_done _ _, by rw [State.deliver_err, State.accept_err]⟩

end

/-! ### The frame of GJ_INVERT -/

/-- Forgetting buffer words changes the storage and draws free values. -/
theorem State.exists_forgetAll_eq (s : State) {ls : List Loc} (h : ∀ l ∈ ls, forgetsBuffer l = true) :
    ∃ m n, s.forgetAll ls = { s with mem := m, draws := n } := by
  induction ls generalizing s with
  | nil => exact ⟨s.mem, s.draws, rfl⟩
  | cons l ls ih =>
    obtain ⟨hl, hls⟩ := List.forall_mem_cons.mp h
    obtain ⟨m, n, hrest⟩ := ih (s.forget l) hls
    refine ⟨m, n, ?_⟩
    rw [State.forgetAll_cons, hrest]
    cases l with
    | hard | which | gjM => rfl
    | _ => cases hl

theorem forgetsBuffer_of_mem_gj {l : Loc} (h : l ∈ gjLocs ++ whichLocs) : forgetsBuffer l = true := by
  rcases List.mem_append.mp h with hgj | hwhich
  · obtain ⟨r, _, hgj⟩ := List.mem_flatMap.mp hgj
    obtain ⟨w, _, rfl⟩ := List.mem_map.mp hgj
    rfl
  · obtain ⟨k, _, rfl⟩ := List.mem_map.mp hwhich
    rfl

/-- All that the delivery of GJ_INVERT changes. -/
theorem State.exists_deliver_gjInvert_eq (s : State) (gr : Nat) (rows : List GjRow) (labels : List Label)
    (failed : Bool) : ∃ m n, s.deliver (.gjInvert gr rows labels failed) =
      { s with mem := m, draws := n, gjOk := !failed, engine := none, done := true } := by
  cases failed with
  | true =>
    obtain ⟨m, n, hforget⟩ := s.exists_forgetAll_eq fun l => forgetsBuffer_of_mem_gj (l := l)
    refine ⟨m, n, ?_⟩
    rw [State.deliver, State.writeOutputs, if_pos rfl, hforget]
    rfl
  | false =>
    obtain ⟨m, hstore⟩ := s.exists_storeAll_eq (((List.range 174).flatMap fun r =>
      (List.range 6).map fun w => (Loc.gjM r w, packedWord (rows.getD r 0) w)) ++
        (List.range 174).map fun k => (Loc.which k, (labels.getD k 0).setWidth 32))
    refine ⟨m, s.draws, ?_⟩
    rw [State.deliver, State.writeOutputs, if_neg Bool.false_ne_true, State.writeGj, hstore]
    rfl

/-- Settles O36: delivery changes nothing else, and the storage changes in the words of `GJ_M` and `WHICH`. -/
theorem gjFrame : Obligations.GjFrame := by
  intro s hready
  obtain ⟨gr, rows, labels, failed, hsweep⟩ := exists_gjSweep_eq 91 0 s.gj
  have hexec := exec_ready hready
  rw [finalWork, ← State.gj, hsweep] at hexec
  have hbytes {a : Nat} (hgj : ∀ r < 174, ∀ w < 6, ¬ (Loc.gjM r w).covers a)
      (hwhich : ∀ k < 174, ¬ (Loc.which k).covers a) :
      ((s.accept .gjInvert).deliver (.gjInvert gr rows labels failed)).readByte a = s.readByte a := by
    refine State.readByte_deliver _ _ fun l hl => ?_
    rcases List.mem_append.mp hl with hl | hl
    · obtain ⟨r, hr, hl⟩ := List.mem_flatMap.mp hl
      obtain ⟨w, hw, rfl⟩ := List.mem_map.mp hl
      exact hgj r (List.mem_range.mp hr) w (List.mem_range.mp hw)
    · obtain ⟨k, hk, rfl⟩ := List.mem_map.mp hl
      exact hwhich k (List.mem_range.mp hk)
  refine ⟨_, hexec, ?_⟩
  obtain ⟨m, n, hdeliver⟩ := (s.accept .gjInvert).exists_deliver_gjInvert_eq gr rows labels failed
  refine ⟨?_, ?_, ?_, ?_, ?_, ?_, ?_, ?_, ?_, ?_, fun a hgj hwhich => hbytes hgj hwhich⟩ <;> rw [hdeliver] <;> rfl

end Sys2Proof.Machine
end
